-- ==== Sys2Proof/Word.lean ====
section
/-! DEFINITION. The word types of the core (rules R8, R9, R110). -/

namespace Sys2Proof

/-- One 32-bit word of the command stream or of a response (R110). -/
abbrev Word := BitVec 32

/-- One 8-bit header field (R110), or one byte of a byte-wide channel (R91). -/
abbrev Byte := BitVec 8

/-- A binary32 value held as its 32-bit pattern (R9). -/
abbrev F32 := BitVec 32

/-- A control value 0..127: a note, a velocity or a raw parameter value (R33, R39). -/
abbrev Raw := BitVec 7

/-- `w[hi:lo]` of R8, read as an unsigned integer of `len` bits. -/
abbrev field (w : Word) (lo len : Nat) : BitVec len := w.extractLsb' lo len

end Sys2Proof
end

