-- ==== Sys2Proof/Config.lean ====
section
/-! DEFINITION. The implementation parameters of rule R6: fixed before power-on, constant afterwards. -/

namespace Sys2Proof

/-- The parameters a model takes as an argument (R6). -/
structure Config where
  /-- `SAMPLE_RATE`, in Hz. -/
  sampleRate : Nat
  /-- `NUM_VOICES`, the size of the voice pool. -/
  numVoices : Nat
deriving DecidableEq, Repr

/-- The defaults of R6, which every derived vector of 95_test_vectors.md uses. -/
def Config.default : Config := { sampleRate := 48000, numVoices := 16 }

/-- `CMD_FIFO_DEPTH`: OPEN in R6, and no result depends on it (log entry 8). -/
opaque Config.cmdFifoDepth : Nat

/-- `AUDIO_FIFO_DEPTH`: OPEN in R6, and no result depends on it (log entry 8). -/
opaque Config.audioFifoDepth : Nat

/-- `RESP_FIFO_DEPTH`: OPEN in R6, and no result depends on it (log entry 8). -/
opaque Config.respFifoDepth : Nat

end Sys2Proof
end

