-- ==== Sys2Proof/Machine/Float.lean ====
section
/-! DEFINITION. The integer and binary32 primitives of rules R8 and R9.
Every finite binary32 value is an integer multiple of 2^-149, the least subnormal. So a finite value
is held exactly as that integer (`fint`), every exact result is a quotient of integers, and one
function (`roundUnits`) rounds it. -/

namespace Sys2Proof.Machine

/-! ## Constants as patterns -/

/-- The canonical quiet NaN. -/
def qNaN : F32 := 0x7FC00000#32
/-- +0. -/
def fZero : F32 := 0x00000000#32
/-- −0. -/
def fNegZero : F32 := 0x80000000#32
/-- 0.5. -/
def fHalf : F32 := 0x3F000000#32
/-- 1.0. -/
def fOne : F32 := 0x3F800000#32
/-- −1.0. -/
def fNegOne : F32 := 0xBF800000#32
/-- 2.0. -/
def fTwo : F32 := 0x40000000#32
/-- 4.0. -/
def fFour : F32 := 0x40800000#32
/-- 2^-22. -/
def twoNeg22 : F32 := 0x34800000#32
/-- 2^-24. -/
def twoNeg24 : F32 := 0x33800000#32
/-- 2^-31. -/
def twoNeg31 : F32 := 0x30000000#32

/-! ## Classes and exact values -/

/-- Bit 31. -/
def fsign (x : F32) : Bool := decide (2 ^ 31 ≤ x.toNat)

/-- The magnitude pattern, bits 30:0. -/
def fpat (x : F32) : Nat := x.toNat % 2 ^ 31

/-- The exponent field, bits 30:23. -/
def fexp (x : F32) : Nat := x.toNat / 2 ^ 23 % 256

/-- The fraction field, bits 22:0. -/
def ffrac (x : F32) : Nat := x.toNat % 2 ^ 23

def isNaN (x : F32) : Bool := fexp x == 255 && ffrac x != 0

def isInf (x : F32) : Bool := fexp x == 255 && ffrac x == 0

/-- Neither NaN nor infinite. -/
def finite (x : F32) : Bool := fexp x != 255

/-- The magnitude of a finite value, in units of 2^-149. -/
def fmag (x : F32) : Nat :=
  if fexp x = 0 then ffrac x else (2 ^ 23 + ffrac x) * 2 ^ (fexp x - 1)

/-- The value of a finite binary32, in units of 2^-149: `val(x) · 2^149` of R9. -/
def fint (x : F32) : Int := if fsign x then -(fmag x : Int) else fmag x

/-! ## Rounding -/

/-- `a / b` to the nearest integer, ties to even. -/
def rneDiv (a b : Nat) : Nat :=
  let q := a / b
  let r := a % b
  if 2 * r < b then q else if b < 2 * r then q + 1 else if q % 2 = 0 then q else q + 1

/-- `rne_int(a / b)` of R9 for a signed numerator. -/
def rneInt (a : Int) (b : Nat) : Int :=
  if a < 0 then -(rneDiv a.natAbs b : Int) else rneDiv a.natAbs b

/-- The magnitude pattern of `a / b` units of 2^-149, rounded once to nearest, ties to even.
With `2^j` units in the last place kept, the pattern is `j · 2^23` plus the rounded significand,
for subnormal (`j = 0`) and normal results alike, and a carry out of the significand runs into the
exponent. A magnitude of 2^128 or more is infinity. -/
def roundUnits (a b : Nat) : Nat :=
  let j := Nat.log2 (a / b) - 23
  min 0x7F800000 (j * 2 ^ 23 + rneDiv a (b * 2 ^ j))

/-- A binary32 from its sign and its magnitude pattern. -/
def pack (neg : Bool) (m : Nat) : F32 := BitVec.ofNat 32 (if neg then 2 ^ 31 + m else m)

/-- `f32(n / d)` of R9: an exact rational rounded once; an exact 0 gives +0. -/
def f32 (n : Int) (d : Nat) : F32 := pack (decide (n < 0)) (roundUnits (n.natAbs * 2 ^ 149) d)

/-- `i2f(n)` of R9. -/
def i2f (n : Int) : F32 := f32 n 1

/-! ## Sign operations -/

/-- Flip bit 31. -/
def fneg (x : F32) : F32 := x ^^^ 0x80000000#32

/-- Clear bit 31. -/
def fabs (x : F32) : F32 := x &&& 0x7FFFFFFF#32

/-! ## Arithmetic, one rounding each -/

/-- Addition. An exact zero sum is +0, but (−0) + (−0) = −0. -/
def fadd (x y : F32) : F32 :=
  if isNaN x || isNaN y then qNaN
  else if isInf x then (if isInf y && fsign x != fsign y then qNaN else x)
  else if isInf y then y
  else
    let s := fint x + fint y
    if s = 0 then (if fsign x && fsign y then fNegZero else fZero)
    else pack (decide (s < 0)) (roundUnits s.natAbs 1)

/-- Subtraction: the sum with the second operand negated. -/
def fsub (x y : F32) : F32 := fadd x (fneg y)

/-- Multiplication; the sign is the exclusive-or of the operands' signs. -/
def fmul (x y : F32) : F32 :=
  let neg := fsign x != fsign y
  if isNaN x || isNaN y then qNaN
  else if isInf x || isInf y then (if fmag x = 0 || fmag y = 0 then qNaN else pack neg 0x7F800000)
  else pack neg (roundUnits (fmag x * fmag y) (2 ^ 149))

/-- Division; the sign is the exclusive-or of the operands' signs. No rule divides by zero (R442);
a finite non-zero value over zero is the infinity of IEEE 754 (log entry 7). -/
def fdiv (x y : F32) : F32 :=
  let neg := fsign x != fsign y
  if isNaN x || isNaN y then qNaN
  else if isInf x then (if isInf y then qNaN else pack neg 0x7F800000)
  else if isInf y then pack neg 0
  else if fmag y = 0 then (if fmag x = 0 then qNaN else pack neg 0x7F800000)
  else pack neg (roundUnits (fmag x * 2 ^ 149) (fmag y))

/-! ## Comparison and clamping -/

/-- An integer that orders the non-NaN patterns as their values, both zeros alike. -/
def fkey (x : F32) : Int := if fsign x then -(fpat x : Int) else fpat x

/-- IEEE less-than, false on a NaN. -/
def flt (x y : F32) : Bool := !isNaN x && !isNaN y && decide (fkey x < fkey y)

/-- IEEE less-or-equal, false on a NaN. -/
def fle (x y : F32) : Bool := !isNaN x && !isNaN y && decide (fkey x ≤ fkey y)

/-- `fmin` of R9. -/
def fmin (x y : F32) : F32 := if flt y x then y else x

/-- `clampf` of R9: a NaN gives the lower bound, a −0 inside the range stays −0. -/
def clampf (x lo hi : F32) : F32 :=
  if isNaN x then lo else if flt x lo then lo else if flt hi x then hi else x

/-- `s32` of R8: the two's-complement value of a word. -/
def s32 (w : Word) : Int := if w.toNat < 2 ^ 31 then w.toNat else (w.toNat : Int) - 2 ^ 32

/-- `u32` of R8: an integer modulo 2^32. -/
def u32 (n : Int) : Word := BitVec.ofInt 32 n

end Sys2Proof.Machine
end

