-- ==== Sys2Proof/Machine/Constants.lean ====
section
/-! DEFINITION. The derived constants of rule R7. `sr` is `SAMPLE_RATE`. -/

namespace Sys2Proof.Machine

/-- `TWO_PI32`. -/
def twoPi32 : F32 := 0x40C90FDB#32

/-- `RAD2ACC` = f32(2^32 / 2π), radians to phase-accumulator units. -/
def rad2accK : F32 := 0x4E22F983#32

/-- The exact value of `RAD2ACC`, an integer. -/
def rad2accInt : Nat := 683565248

/-- `SR32`, the sample rate as a binary32 (R6). -/
def sr32 (sr : Nat) : F32 := i2f sr

/-- `NYQ32` = f32(sr / 2). -/
def nyq32 (sr : Nat) : F32 := f32 sr 2

/-- `FC_MAX` = f32(9·sr / 20). -/
def fcMax (sr : Nat) : F32 := f32 (9 * sr) 20

/-- `RES_MAX` = f32(95 / 100). -/
def resMax : F32 := 0x3F733333#32

/-- `SVF_F_MAX` = f32(8 / 10). -/
def svfFMax : F32 := 0x3F4CCCCD#32

/-- `FILTER_STATE_LIMIT` = 16.0. -/
def filterStateLimit : F32 := 0x41800000#32

/-- `ENV_TIME_MAX` = 60.0 seconds. -/
def envTimeMax : F32 := 0x42700000#32

/-- `FENV_RANGE` = 10000.0 Hz. -/
def fenvRange : F32 := 0x461C4000#32

/-- `LFSR_MASK`. -/
def lfsrMask : Word := 0x80200003#32

/-- The word an invalid target answers with (R121). -/
def invalidWord : Word := 0xFFFFFFFF#32

end Sys2Proof.Machine
end

