-- ==== Sys2Proof/Machine/Units.lean ====
section
/-! DEFINITION. The units of the core as plain data: the register files of 10_state.md R33 to R39. -/

namespace Sys2Proof.Machine

/-! ## Oscillator (R34) -/

/-- The waveform selector, codes 0 to 7 in this order (R140). -/
inductive Waveform where
  | sine | tri | saw | ramp | square | pbTri | pbSaw | pbSquare
deriving DecidableEq, Repr

/-- One oscillator unit (R34). -/
structure Osc where
  /-- Running phase, `2π·acc/2^32` radians. -/
  acc : Word
  /-- Phase increment per sample. -/
  inc : Word
  /-- Waveform selector. -/
  wave : Waveform
  /-- Amplitude. -/
  amp : F32
  /-- Pulse width. -/
  pw : F32
  /-- PolyBLEP-triangle integrator state. -/
  last : F32
  /-- End-of-cycle flag (R152). -/
  eoc : Bool
  /-- End-of-rise flag (R152). -/
  eor : Bool
deriving DecidableEq, Repr

/-! ## Envelope (R35) -/

/-- The envelope's stages, codes 0 to 4 in this order (R200). -/
inductive Stage where
  | idle | attack | decay | sustain | release
deriving DecidableEq, Repr

/-- One envelope unit (R35). -/
structure Env where
  stage : Stage
  /-- Current output amplitude. -/
  level : F32
  /-- Last gate value written. -/
  gate : Bool
  /-- Attack increment per sample. -/
  aInc : F32
  /-- Decay decrement per sample. -/
  dInc : F32
  /-- Release decrement per sample. -/
  rInc : F32
  /-- Sustain level. -/
  sus : F32
deriving DecidableEq, Repr

/-! ## Filters (R36, R37) -/

/-- One ladder filter unit (R36). -/
structure Ladder where
  s0 : F32
  s1 : F32
  s2 : F32
  s3 : F32
  /-- Stored cutoff in Hz. -/
  fc : F32
  /-- Stage coefficient derived from `fc`. -/
  g : F32
  /-- Resonance. -/
  res : F32
  /-- Feedback gain. -/
  k : F32
deriving DecidableEq, Repr

/-- One state-variable filter unit (R37). -/
structure Svf where
  low : F32
  band : F32
  high : F32
  /-- Stored cutoff in Hz. -/
  fc : F32
  /-- Frequency coefficient. -/
  f : F32
  /-- Resonance. -/
  res : F32
  /-- Damping. -/
  q : F32
deriving DecidableEq, Repr

/-! ## Noise (R38) -/

/-- One noise unit (R38). -/
structure Noise where
  /-- The LFSR. -/
  state : Word
  amp : F32
deriving DecidableEq, Repr

/-! ## Voice (R39) -/

/-- One voice: its units and its own three registers (R39). The active flag and `VSTATE` are
derived, not stored (R40). -/
structure Voice where
  osc0 : Osc
  osc1 : Osc
  /-- The amplitude envelope. -/
  env0 : Env
  /-- The filter envelope. -/
  env1 : Env
  /-- `flt[0]`. -/
  ladder : Ladder
  /-- `flt[1]`. -/
  svf : Svf
  noise : Noise
  note : Raw
  vel : Raw
  /-- Frequency of `note` in Hz at the last note-on. -/
  fnote : F32
deriving DecidableEq, Repr

/-- The derived voice state of R40. -/
inductive VState where
  | inactive | held | released
deriving DecidableEq, Repr

/-! ## Parameter panel (R33, R380) -/

/-- The parameters of the register map of R380, IDs 0 to 26 in this order. -/
inductive Param where
  | oscWaveform | pulseWidth | fmDepth | detuneCoarse | detuneFine | noiseLevel | mix
  | filterCutoff | filterResonance | filterEnvAmount | filterTracking
  | ampAttack | ampDecay | ampSustain | ampRelease
  | lfoWaveform | lfoRate
  | fxSlot0 | fxSlot1 | fxSlot2 | fxSlot3
  | lfoPwDepth | lfoCutoffDepth | osc2Enable | syncEnable | filterType | masterGain
deriving DecidableEq, Repr

/-- The parameter panel `P` (R33), indexed by parameter ID. -/
structure Panel where
  /-- The raw control values. -/
  raw : Vector Raw 27
  /-- The derived engineering-unit values. -/
  scaled : Vector F32 27
deriving DecidableEq, Repr

end Sys2Proof.Machine
end

