-- ==== Sys2Proof/Machine/Scaling.lean ====
section
/-! DEFINITION. The register map and the scaling formulas of the parameter panel
(46_parameter_panel.md R380, R381), and access to the panel by parameter. -/

namespace Sys2Proof.Machine

/-- The ID of a parameter (R380). -/
def Param.id : Param → Fin 27
  | .oscWaveform => 0
  | .pulseWidth => 1
  | .fmDepth => 2
  | .detuneCoarse => 3
  | .detuneFine => 4
  | .noiseLevel => 5
  | .mix => 6
  | .filterCutoff => 7
  | .filterResonance => 8
  | .filterEnvAmount => 9
  | .filterTracking => 10
  | .ampAttack => 11
  | .ampDecay => 12
  | .ampSustain => 13
  | .ampRelease => 14
  | .lfoWaveform => 15
  | .lfoRate => 16
  | .fxSlot0 => 17
  | .fxSlot1 => 18
  | .fxSlot2 => 19
  | .fxSlot3 => 20
  | .lfoPwDepth => 21
  | .lfoCutoffDepth => 22
  | .osc2Enable => 23
  | .syncEnable => 24
  | .filterType => 25
  | .masterGain => 26

/-- The parameter of an ID; `none` from `NUM_PARAMS` = 27 on (R7, R384). -/
def Param.ofId (i : Nat) : Option Param :=
  match i with
  | 0 => some .oscWaveform
  | 1 => some .pulseWidth
  | 2 => some .fmDepth
  | 3 => some .detuneCoarse
  | 4 => some .detuneFine
  | 5 => some .noiseLevel
  | 6 => some .mix
  | 7 => some .filterCutoff
  | 8 => some .filterResonance
  | 9 => some .filterEnvAmount
  | 10 => some .filterTracking
  | 11 => some .ampAttack
  | 12 => some .ampDecay
  | 13 => some .ampSustain
  | 14 => some .ampRelease
  | 15 => some .lfoWaveform
  | 16 => some .lfoRate
  | 17 => some .fxSlot0
  | 18 => some .fxSlot1
  | 19 => some .fxSlot2
  | 20 => some .fxSlot3
  | 21 => some .lfoPwDepth
  | 22 => some .lfoCutoffDepth
  | 23 => some .osc2Enable
  | 24 => some .syncEnable
  | 25 => some .filterType
  | 26 => some .masterGain
  | _ => none

/-! ## Scaling (R381) -/

/-- `lin(lo/den, hi/den)(r)`: `f32(lo + (hi − lo)·r/127)`, exact and rounded once. -/
def lin (lo hi : Int) (den : Nat) (r : Raw) : F32 :=
  f32 (lo * 127 + (hi - lo) * (r.toNat : Int)) (127 * den)

/-- `enum(r)`: the code `r >> 4`. -/
def enumCode (r : Raw) : Nat := r.toNat / 16

/-- `switch`: raw 64 and above is on. -/
def switchOn (r : Raw) : Bool := decide (64 ≤ r.toNat)

/-- The coarse detune of a raw value, in semitones: `floor(r·25/128) − 12`. -/
def coarseSemitones (r : Raw) : Int := ((r.toNat * 25 / 128 : Nat) : Int) - 12

/-- `SCALE(i, r)`: the scaling column of R380. DESIGN CHOICE (log entry 19, unsafe): the bound 0.01 of
FM_DEPTH is the rational 1/100 and not the binary32 nearest to it, which R381 leaves open. -/
def scale (p : Param) (r : Raw) : F32 :=
  match p with
  | .oscWaveform => i2f (enumCode r)
  | .pulseWidth => lin 0 1 1 r
  | .fmDepth => lin 0 1 100 r
  | .detuneCoarse => i2f (coarseSemitones r)
  | .detuneFine => lin (-50) 50 1 r
  | .noiseLevel => lin 0 1 1 r
  | .mix => lin 0 1 1 r
  | .filterCutoff => lin 20 20000 1 r
  | .filterResonance => lin 0 1 1 r
  | .filterEnvAmount => lin (-1) 1 1 r
  | .filterTracking => lin 0 1 1 r
  | .ampAttack => lin 0 5 1 r
  | .ampDecay => lin 0 5 1 r
  | .ampSustain => lin 0 1 1 r
  | .ampRelease => lin 0 5 1 r
  | .lfoWaveform => i2f (enumCode r)
  | .lfoRate => lin 0 20 1 r
  | .fxSlot0 => lin 0 1 1 r
  | .fxSlot1 => lin 0 1 1 r
  | .fxSlot2 => lin 0 1 1 r
  | .fxSlot3 => lin 0 1 1 r
  | .lfoPwDepth => lin 0 1 2 r
  | .lfoCutoffDepth => lin 0 5000 1 r
  | .osc2Enable => if switchOn r then fOne else fZero
  | .syncEnable => if switchOn r then fOne else fZero
  | .filterType => if switchOn r then fOne else fZero
  | .masterGain => lin 0 1 1 r

/-- The reset raw column of R380. -/
def resetRaw : Param → Raw
  | .pulseWidth | .detuneCoarse | .detuneFine | .filterEnvAmount => 64#7
  | .filterCutoff | .ampSustain | .masterGain => 127#7
  | .oscWaveform | .fmDepth | .noiseLevel | .mix | .filterResonance | .filterTracking
  | .ampAttack | .ampDecay | .ampRelease | .lfoWaveform | .lfoRate
  | .fxSlot0 | .fxSlot1 | .fxSlot2 | .fxSlot3 | .lfoPwDepth | .lfoCutoffDepth
  | .osc2Enable | .syncEnable | .filterType => 0#7

/-! ## Access to the panel -/

/-- `P.raw[p]`. -/
def Panel.rawOf (P : Panel) (p : Param) : Raw := P.raw[p.id]

/-- `P.scaled[p]`. -/
def Panel.scaledOf (P : Panel) (p : Param) : F32 := P.scaled[p.id]

/-- Write a raw value and its derived scaled value together (R384). -/
def Panel.write (P : Panel) (p : Param) (r : Raw) : Panel :=
  { raw := P.raw.set p.id r, scaled := P.scaled.set p.id (scale p r) }

/-- The panel with every raw value given by `f` and every scaled value derived from it. -/
def Panel.ofRaw (f : Param → Raw) : Panel :=
  let at' (i : Fin 27) : Param := (Param.ofId i).getD .oscWaveform
  { raw := Vector.ofFn fun i => f (at' i), scaled := Vector.ofFn fun i => scale (at' i) (f (at' i)) }

/-! ## Waveform and stage codes -/

/-- The waveform of a code, codes above 7 clamped to 7 (R140, R147). -/
def waveOfCode (c : Nat) : Waveform :=
  match min c 7 with
  | 0 => .sine
  | 1 => .tri
  | 2 => .saw
  | 3 => .ramp
  | 4 => .square
  | 5 => .pbTri
  | 6 => .pbSaw
  | _ => .pbSquare

/-- The 3-bit code of a waveform (R140). -/
def Waveform.code : Waveform → BitVec 3
  | .sine => 0
  | .tri => 1
  | .saw => 2
  | .ramp => 3
  | .square => 4
  | .pbTri => 5
  | .pbSaw => 6
  | .pbSquare => 7

/-- The 3-bit code of a stage (R200). -/
def Stage.code : Stage → BitVec 3
  | .idle => 0
  | .attack => 1
  | .decay => 2
  | .sustain => 3
  | .release => 4

end Sys2Proof.Machine
end

