-- ==== Sys2Proof/Machine/Flags.lean ====
section
/-! DEFINITION. The oscillator flags, the only status flags of the core (R42), and the words that
show flags and codes to the host. -/

namespace Sys2Proof.Machine

/-- End of cycle: the advance by `d` carried past 2^32 (R151, R152). -/
def eocFlag (acc : Word) (d : Int) : Bool := decide (2 ^ 32 ≤ (acc.toNat : Int) + d)

/-- End of rise: the advance by `d` took the phase from below the half cycle to it or beyond
(R151, R152). -/
def eorFlag (acc : Word) (d : Int) : Bool :=
  decide (acc.toNat < 2 ^ 31) && decide (2 ^ 31 ≤ (acc.toNat : Int) + d)

/-- `{27'b0, wave[2:0], eor, eoc}` of R169. -/
def oscFlagWord (o : Osc) : Word :=
  0#27 ++ o.wave.code ++ BitVec.ofBool o.eor ++ BitVec.ofBool o.eoc

/-- `{28'b0, gate, stage[2:0]}` of R212. -/
def envFlagWord (e : Env) : Word := 0#28 ++ BitVec.ofBool e.gate ++ e.stage.code

/-- `IsRunning(E)` of R207. -/
def isRunning (e : Env) : Bool := decide (e.stage ≠ .idle)

/-- `active(v)` of R40. -/
def active (v : Voice) : Bool := isRunning v.env0

/-- `VSTATE(v)` of R40. -/
def vstate (v : Voice) : VState :=
  if active v = false then .inactive else if v.env0.gate then .held else .released

/-- The word of `READ_VOICE` (R422). -/
def voiceStatusWord (v : Voice) : Word :=
  0#6 ++ BitVec.ofBool v.osc1.eor ++ BitVec.ofBool v.osc1.eoc ++ BitVec.ofBool v.osc0.eor
    ++ v.vel ++ BitVec.ofBool v.osc0.eoc ++ v.note ++ BitVec.ofBool v.env0.gate
    ++ v.env1.stage.code ++ v.env0.stage.code ++ BitVec.ofBool (active v)

end Sys2Proof.Machine
end

