-- ==== Sys2Proof/Syntax.lean ====
section
/-! DEFINITION. The commands: one constructor per row of the opcode map (rule R114).
Fields a command ignores (R110, R115) are no operands and do not stand here (log entry 10). -/

namespace Sys2Proof

/-- The opcode of a command: the rows of R114 in the table's order. -/
inductive Op where
  | nop | noteOn | noteOff | controlChange | render | readParam | readVoice | reset
  | oscSetFreq | oscSetWaveform | oscSetAmp | oscSetPw | oscPhaseAdd | oscReset | oscProcess
  | oscProcessMod | oscRead
  | envSetAttack | envSetDecay | envSetSustain | envSetRelease | envSetGate | envProcess | envRead
  | fltSetFreq | fltSetRes | fltProcess | fltProcessMod | fltRead
  | noiseSetAmp | noiseSeed | noiseProcess | noiseRead
  | voiceNoteOn | voiceNoteOff | voiceProcess
deriving DecidableEq, Repr

/-- A command with its operands. `tgt` is header field TGT; `osc`, `env` and `kind` are the unit
select in field A; a `Word` operand is a payload word (R110, R114, R122). -/
inductive Instr where
  /-- `NOP`, 0x00 (R420). -/
  | nop
  /-- `NOTE_ON`, 0x01 (R341). -/
  | noteOn (note vel : Byte)
  /-- `NOTE_OFF`, 0x02 (R342); the release velocity is carried and ignored. -/
  | noteOff (note vel : Byte)
  /-- `CONTROL_CHANGE`, 0x03 (R384). -/
  | controlChange (id value : Byte)
  /-- `RENDER`, 0x04 (R347); the count is fields A and B together. -/
  | render (count : BitVec 16)
  /-- `READ_PARAM`, 0x05 (R385). -/
  | readParam (id : Byte)
  /-- `READ_VOICE`, 0x06 (R422). -/
  | readVoice (tgt : Byte)
  /-- `RESET`, 0x0F (R421). -/
  | reset
  /-- `OSC_SET_FREQ`, 0x10 (R146). -/
  | oscSetFreq (tgt osc : Byte) (freq : Word)
  /-- `OSC_SET_WAVEFORM`, 0x11 (R147). -/
  | oscSetWaveform (tgt osc code : Byte)
  /-- `OSC_SET_AMP`, 0x12 (R148). -/
  | oscSetAmp (tgt osc : Byte) (amp : Word)
  /-- `OSC_SET_PW`, 0x13 (R149). -/
  | oscSetPw (tgt osc : Byte) (pw : Word)
  /-- `OSC_PHASE_ADD`, 0x14 (R155). -/
  | oscPhaseAdd (tgt osc : Byte) (delta : Word)
  /-- `OSC_RESET`, 0x15 (R156). -/
  | oscReset (tgt osc : Byte)
  /-- `OSC_PROCESS`, 0x16 (R166). -/
  | oscProcess (tgt osc : Byte)
  /-- `OSC_PROCESS_MOD`, 0x17 (R167); `rst` is B[0]. -/
  | oscProcessMod (tgt osc : Byte) (rst : Bool) (fm pwm : Word)
  /-- `OSC_READ`, 0x18 (R169). -/
  | oscRead (tgt osc : Byte)
  /-- `ENV_SET_ATTACK`, 0x20 (R202). -/
  | envSetAttack (tgt env : Byte) (time : Word)
  /-- `ENV_SET_DECAY`, 0x21 (R203). -/
  | envSetDecay (tgt env : Byte) (time : Word)
  /-- `ENV_SET_SUSTAIN`, 0x22 (R204). -/
  | envSetSustain (tgt env : Byte) (level : Word)
  /-- `ENV_SET_RELEASE`, 0x23 (R208). -/
  | envSetRelease (tgt env : Byte) (time : Word)
  /-- `ENV_SET_GATE`, 0x24 (R209); `gate` is B[0]. -/
  | envSetGate (tgt env : Byte) (gate : Bool)
  /-- `ENV_PROCESS`, 0x25 (R210); `gate` is B[0]. -/
  | envProcess (tgt env : Byte) (gate : Bool)
  /-- `ENV_READ`, 0x26 (R212). -/
  | envRead (tgt env : Byte)
  /-- `FLT_SET_FREQ`, 0x30 (R244). -/
  | fltSetFreq (tgt kind : Byte) (fc : Word)
  /-- `FLT_SET_RES`, 0x31 (R245). -/
  | fltSetRes (tgt kind : Byte) (res : Word)
  /-- `FLT_PROCESS`, 0x32 (R246). -/
  | fltProcess (tgt kind : Byte) (x : Word)
  /-- `FLT_PROCESS_MOD`, 0x33 (R247). -/
  | fltProcessMod (tgt kind : Byte) (x fc : Word)
  /-- `FLT_READ`, 0x34 (R249). -/
  | fltRead (tgt kind : Byte)
  /-- `NOISE_SET_AMP`, 0x40 (R281). -/
  | noiseSetAmp (tgt : Byte) (amp : Word)
  /-- `NOISE_SEED`, 0x41 (R282). -/
  | noiseSeed (tgt : Byte) (seed : Word)
  /-- `NOISE_PROCESS`, 0x42 (R283). -/
  | noiseProcess (tgt : Byte)
  /-- `NOISE_READ`, 0x43 (R284). -/
  | noiseRead (tgt : Byte)
  /-- `VOICE_NOTE_ON`, 0x50 (R314). -/
  | voiceNoteOn (tgt note vel : Byte)
  /-- `VOICE_NOTE_OFF`, 0x51 (R315). -/
  | voiceNoteOff (tgt : Byte)
  /-- `VOICE_PROCESS`, 0x52 (R313). -/
  | voiceProcess (tgt : Byte)
deriving DecidableEq, Repr

/-- The opcode of a command. -/
def Instr.op : Instr → Op
  | .nop => .nop
  | .noteOn .. => .noteOn
  | .noteOff .. => .noteOff
  | .controlChange .. => .controlChange
  | .render .. => .render
  | .readParam .. => .readParam
  | .readVoice .. => .readVoice
  | .reset => .reset
  | .oscSetFreq .. => .oscSetFreq
  | .oscSetWaveform .. => .oscSetWaveform
  | .oscSetAmp .. => .oscSetAmp
  | .oscSetPw .. => .oscSetPw
  | .oscPhaseAdd .. => .oscPhaseAdd
  | .oscReset .. => .oscReset
  | .oscProcess .. => .oscProcess
  | .oscProcessMod .. => .oscProcessMod
  | .oscRead .. => .oscRead
  | .envSetAttack .. => .envSetAttack
  | .envSetDecay .. => .envSetDecay
  | .envSetSustain .. => .envSetSustain
  | .envSetRelease .. => .envSetRelease
  | .envSetGate .. => .envSetGate
  | .envProcess .. => .envProcess
  | .envRead .. => .envRead
  | .fltSetFreq .. => .fltSetFreq
  | .fltSetRes .. => .fltSetRes
  | .fltProcess .. => .fltProcess
  | .fltProcessMod .. => .fltProcessMod
  | .fltRead .. => .fltRead
  | .noiseSetAmp .. => .noiseSetAmp
  | .noiseSeed .. => .noiseSeed
  | .noiseProcess .. => .noiseProcess
  | .noiseRead .. => .noiseRead
  | .voiceNoteOn .. => .voiceNoteOn
  | .voiceNoteOff .. => .voiceNoteOff
  | .voiceProcess .. => .voiceProcess

end Sys2Proof
end

