-- ==== Sys2Proof/WellFormed.lean ====
section
/-! DEFINITION. What is checked of parameters, of commands and of target fields. -/

namespace Sys2Proof

/-- The legal parameter values of R6. -/
def Config.legal (c : Config) : Bool :=
  8000 ≤ c.sampleRate && c.sampleRate ≤ 192000 && 1 ≤ c.numVoices && c.numVoices ≤ 255

/-- A note, velocity or parameter-value field that is not clamped: 0..127 (R115). -/
def inRawRange (b : Byte) : Bool := b.toNat ≤ 127

/-- Oscillator target of R117, for a pool of `nv` voices. -/
def oscTargetValid (nv : Nat) (tgt a : Byte) : Bool :=
  (tgt.toNat < nv && a.toNat ≤ 1) || (tgt == 0xFF#8 && a == 0#8)

/-- Envelope or filter target of R118 and R119. -/
def unitTargetValid (nv : Nat) (tgt a : Byte) : Bool := tgt.toNat < nv && a.toNat ≤ 1

/-- Noise or voice target of R120. -/
def voiceTargetValid (nv : Nat) (tgt : Byte) : Bool := tgt.toNat < nv

/-- The target of a command is valid in a pool of `nv` voices (R117 to R120). A command without a
target has none to be invalid. An invalid target is no decoding error: R121 says what it does. -/
def Instr.targetValid (nv : Nat) : Instr → Bool
  | .nop | .noteOn .. | .noteOff .. | .controlChange .. | .render .. | .readParam .. | .reset => true
  | .readVoice t => voiceTargetValid nv t
  | .oscSetFreq t a _ | .oscSetWaveform t a _ | .oscSetAmp t a _ | .oscSetPw t a _
  | .oscPhaseAdd t a _ | .oscReset t a | .oscProcess t a | .oscProcessMod t a _ _ _
  | .oscRead t a => oscTargetValid nv t a
  | .envSetAttack t a _ | .envSetDecay t a _ | .envSetSustain t a _ | .envSetRelease t a _
  | .envSetGate t a _ | .envProcess t a _ | .envRead t a => unitTargetValid nv t a
  | .fltSetFreq t a _ | .fltSetRes t a _ | .fltProcess t a _ | .fltProcessMod t a _ _
  | .fltRead t a => unitTargetValid nv t a
  | .noiseSetAmp t _ | .noiseSeed t _ | .noiseProcess t | .noiseRead t => voiceTargetValid nv t
  | .voiceNoteOn t _ _ | .voiceNoteOff t | .voiceProcess t => voiceTargetValid nv t

/-- No operand of the command is one that its rule clamps or ignores because it is out of range
(policies S2, S3, S4 and S6 of R441). -/
def Instr.operandsInRange : Instr → Bool
  | .noteOn n v => inRawRange n && inRawRange v
  | .noteOff n _ => inRawRange n
  | .voiceNoteOn _ n v => inRawRange n && inRawRange v
  | .controlChange i v => i.toNat < 27 && inRawRange v
  | .readParam i => i.toNat < 27
  | .oscSetWaveform _ _ c => c.toNat ≤ 7
  | .nop | .render .. | .readVoice .. | .reset | .oscSetFreq .. | .oscSetAmp .. | .oscSetPw ..
  | .oscPhaseAdd .. | .oscReset .. | .oscProcess .. | .oscProcessMod .. | .oscRead ..
  | .envSetAttack .. | .envSetDecay .. | .envSetSustain .. | .envSetRelease .. | .envSetGate ..
  | .envProcess .. | .envRead .. | .fltSetFreq .. | .fltSetRes .. | .fltProcess ..
  | .fltProcessMod .. | .fltRead .. | .noiseSetAmp .. | .noiseSeed .. | .noiseProcess ..
  | .noiseRead .. | .voiceNoteOff .. | .voiceProcess .. => true

/-- A command as a careful host writes it: a valid target and no operand out of range. The core
runs every other command too (R115, R121, R441); every command of `Instr` has an encoding, since
each operand type is exactly its field (R110). -/
def Instr.wellFormed (nv : Nat) (i : Instr) : Bool := i.targetValid nv && i.operandsInRange

end Sys2Proof
end

