-- ==== Sys2Proof/Decode.lean ====
section
/-! DEFINITION. Decoding the command stream, and the encoder after it (30_encoding.md). -/

namespace Sys2Proof

/-! ## The fields of a header word (R110) -/

/-- Field OP, bits 31:24. -/
def opField (h : Word) : Byte := field h 24 8

/-- Field TGT, bits 23:16. -/
def tgtField (h : Word) : Byte := field h 16 8

/-- Field A, bits 15:8. -/
def aField (h : Word) : Byte := field h 8 8

/-- Field B, bits 7:0. -/
def bField (h : Word) : Byte := field h 0 8

/-! ## The opcode map (R114) -/

/-- The opcode a byte stands for; `none` for the undefined opcodes of R114 and R423. -/
def Op.ofByte (b : Byte) : Option Op :=
  match b.toNat with
  | 0x00 => some .nop
  | 0x01 => some .noteOn
  | 0x02 => some .noteOff
  | 0x03 => some .controlChange
  | 0x04 => some .render
  | 0x05 => some .readParam
  | 0x06 => some .readVoice
  | 0x0F => some .reset
  | 0x10 => some .oscSetFreq
  | 0x11 => some .oscSetWaveform
  | 0x12 => some .oscSetAmp
  | 0x13 => some .oscSetPw
  | 0x14 => some .oscPhaseAdd
  | 0x15 => some .oscReset
  | 0x16 => some .oscProcess
  | 0x17 => some .oscProcessMod
  | 0x18 => some .oscRead
  | 0x20 => some .envSetAttack
  | 0x21 => some .envSetDecay
  | 0x22 => some .envSetSustain
  | 0x23 => some .envSetRelease
  | 0x24 => some .envSetGate
  | 0x25 => some .envProcess
  | 0x26 => some .envRead
  | 0x30 => some .fltSetFreq
  | 0x31 => some .fltSetRes
  | 0x32 => some .fltProcess
  | 0x33 => some .fltProcessMod
  | 0x34 => some .fltRead
  | 0x40 => some .noiseSetAmp
  | 0x41 => some .noiseSeed
  | 0x42 => some .noiseProcess
  | 0x43 => some .noiseRead
  | 0x50 => some .voiceNoteOn
  | 0x51 => some .voiceNoteOff
  | 0x52 => some .voiceProcess
  | _ => none

/-- `PAY(OP)`: the payload words of an opcode (columns "pay" of R114, R112). -/
def Op.pay : Op → Nat
  | .nop | .noteOn | .noteOff | .controlChange | .render | .readParam | .readVoice | .reset
  | .oscSetWaveform | .oscReset | .oscProcess | .oscRead | .envSetGate | .envProcess
  | .envRead | .fltRead | .noiseProcess | .noiseRead | .voiceNoteOn | .voiceNoteOff
  | .voiceProcess => 0
  | .oscSetFreq | .oscSetAmp | .oscSetPw | .oscPhaseAdd | .envSetAttack | .envSetDecay
  | .envSetSustain | .envSetRelease | .fltSetFreq | .fltSetRes | .fltProcess | .noiseSetAmp
  | .noiseSeed => 1
  | .oscProcessMod | .fltProcessMod => 2

/-- The response words of an opcode (column "resp" of R114, R116). -/
def Op.resp : Op → Nat
  | .nop | .noteOn | .noteOff | .controlChange | .render | .reset | .oscSetFreq
  | .oscSetWaveform | .oscSetAmp | .oscSetPw | .oscPhaseAdd | .oscReset | .envSetAttack
  | .envSetDecay | .envSetSustain | .envSetRelease | .envSetGate | .fltSetFreq | .fltSetRes
  | .noiseSetAmp | .noiseSeed | .voiceNoteOn | .voiceNoteOff => 0
  | .readVoice | .oscProcess | .oscProcessMod | .envProcess | .fltProcess | .fltProcessMod
  | .noiseProcess | .voiceProcess => 1
  | .readParam | .noiseRead => 2
  | .oscRead | .envRead | .fltRead => 6

/-- The command a header `h` of opcode `op` stands for, with its payload words; a payload word the
opcode does not have is not looked at. -/
def Op.build (op : Op) (h p0 p1 : Word) : Instr :=
  let t := tgtField h
  let a := aField h
  let b := bField h
  match op with
  | .nop => .nop
  | .noteOn => .noteOn a b
  | .noteOff => .noteOff a b
  | .controlChange => .controlChange a b
  | .render => .render (field h 0 16)
  | .readParam => .readParam a
  | .readVoice => .readVoice t
  | .reset => .reset
  | .oscSetFreq => .oscSetFreq t a p0
  | .oscSetWaveform => .oscSetWaveform t a b
  | .oscSetAmp => .oscSetAmp t a p0
  | .oscSetPw => .oscSetPw t a p0
  | .oscPhaseAdd => .oscPhaseAdd t a p0
  | .oscReset => .oscReset t a
  | .oscProcess => .oscProcess t a
  | .oscProcessMod => .oscProcessMod t a (b.getLsbD 0) p0 p1
  | .oscRead => .oscRead t a
  | .envSetAttack => .envSetAttack t a p0
  | .envSetDecay => .envSetDecay t a p0
  | .envSetSustain => .envSetSustain t a p0
  | .envSetRelease => .envSetRelease t a p0
  | .envSetGate => .envSetGate t a (b.getLsbD 0)
  | .envProcess => .envProcess t a (b.getLsbD 0)
  | .envRead => .envRead t a
  | .fltSetFreq => .fltSetFreq t a p0
  | .fltSetRes => .fltSetRes t a p0
  | .fltProcess => .fltProcess t a p0
  | .fltProcessMod => .fltProcessMod t a p0 p1
  | .fltRead => .fltRead t a
  | .noiseSetAmp => .noiseSetAmp t p0
  | .noiseSeed => .noiseSeed t p0
  | .noiseProcess => .noiseProcess t
  | .noiseRead => .noiseRead t
  | .voiceNoteOn => .voiceNoteOn t a b
  | .voiceNoteOff => .voiceNoteOff t
  | .voiceProcess => .voiceProcess t

/-- What the front of a word sequence is. -/
inductive Decoded where
  /-- No word has arrived. -/
  | empty
  /-- A whole command, and the words after it. -/
  | command (i : Instr) (rest : List Word)
  /-- A header whose opcode is undefined: rejected by name, one word long (R423). -/
  | undefinedOpcode (op : Byte) (rest : List Word)
  /-- A header whose payload has not all arrived (R424): its opcode, and how many words are missing. -/
  | incomplete (op : Op) (missing : Nat)
deriving DecidableEq, Repr

/-- Decode the front of a word sequence. The length is fixed by OP alone (R112). -/
def decode : List Word → Decoded
  | [] => .empty
  | h :: ws =>
    match Op.ofByte (opField h) with
    | none => .undefinedOpcode (opField h) ws
    | some op =>
      if ws.length < op.pay then .incomplete op (op.pay - ws.length)
      else .command (op.build h (ws.getD 0 0#32) (ws.getD 1 0#32)) (ws.drop op.pay)

/-! ## Words on a byte-wide channel (R91, R92) -/

/-- A word's bytes, least significant first. -/
def wordBytes (w : Word) : List Byte := [field w 0 8, field w 8 8, field w 16 8, field w 24 8]

/-- The word of four bytes, the first the least significant. -/
def bytesWord (b0 b1 b2 b3 : Byte) : Word := b3 ++ b2 ++ b1 ++ b0

/-- A word sequence as a little-endian byte sequence. -/
def serialise (ws : List Word) : List Byte := ws.flatMap wordBytes

/-- The whole words of a byte sequence, and the bytes of a last word that is not complete. -/
def deserialise : List Byte → List Word × List Byte
  | b0 :: b1 :: b2 :: b3 :: bs =>
    let r := deserialise bs
    (bytesWord b0 b1 b2 b3 :: r.1, r.2)
  | bs => ([], bs)

/-! ## The encoder -/

/-- A header word from its four fields (R110). -/
def header (op tgt a b : Byte) : Word := op ++ tgt ++ a ++ b

/-- A control bit in B[0], the other bits of B zero. -/
def boolByte (x : Bool) : Byte := if x then 1#8 else 0#8

/-- The words of a command; a field the command ignores is zero (log entry 10). -/
def encode : Instr → List Word
  | .nop => [header 0x00#8 0#8 0#8 0#8]
  | .noteOn n v => [header 0x01#8 0#8 n v]
  | .noteOff n v => [header 0x02#8 0#8 n v]
  | .controlChange i v => [header 0x03#8 0#8 i v]
  | .render n => [header 0x04#8 0#8 (n.extractLsb' 8 8) (n.extractLsb' 0 8)]
  | .readParam i => [header 0x05#8 0#8 i 0#8]
  | .readVoice t => [header 0x06#8 t 0#8 0#8]
  | .reset => [header 0x0F#8 0#8 0#8 0#8]
  | .oscSetFreq t a x => [header 0x10#8 t a 0#8, x]
  | .oscSetWaveform t a c => [header 0x11#8 t a c]
  | .oscSetAmp t a x => [header 0x12#8 t a 0#8, x]
  | .oscSetPw t a x => [header 0x13#8 t a 0#8, x]
  | .oscPhaseAdd t a x => [header 0x14#8 t a 0#8, x]
  | .oscReset t a => [header 0x15#8 t a 0#8]
  | .oscProcess t a => [header 0x16#8 t a 0#8]
  | .oscProcessMod t a r x y => [header 0x17#8 t a (boolByte r), x, y]
  | .oscRead t a => [header 0x18#8 t a 0#8]
  | .envSetAttack t a x => [header 0x20#8 t a 0#8, x]
  | .envSetDecay t a x => [header 0x21#8 t a 0#8, x]
  | .envSetSustain t a x => [header 0x22#8 t a 0#8, x]
  | .envSetRelease t a x => [header 0x23#8 t a 0#8, x]
  | .envSetGate t a g => [header 0x24#8 t a (boolByte g)]
  | .envProcess t a g => [header 0x25#8 t a (boolByte g)]
  | .envRead t a => [header 0x26#8 t a 0#8]
  | .fltSetFreq t a x => [header 0x30#8 t a 0#8, x]
  | .fltSetRes t a x => [header 0x31#8 t a 0#8, x]
  | .fltProcess t a x => [header 0x32#8 t a 0#8, x]
  | .fltProcessMod t a x y => [header 0x33#8 t a 0#8, x, y]
  | .fltRead t a => [header 0x34#8 t a 0#8]
  | .noiseSetAmp t x => [header 0x40#8 t 0#8 0#8, x]
  | .noiseSeed t x => [header 0x41#8 t 0#8 0#8, x]
  | .noiseProcess t => [header 0x42#8 t 0#8 0#8]
  | .noiseRead t => [header 0x43#8 t 0#8 0#8]
  | .voiceNoteOn t n v => [header 0x50#8 t n v]
  | .voiceNoteOff t => [header 0x51#8 t 0#8 0#8]
  | .voiceProcess t => [header 0x52#8 t 0#8 0#8]

/-! ## Words as the opcode table numbers them -/

/-- The words of an instruction given as one number: bit 0 is bit 0 of the header, a payload word's
bits count on from it, and every bit above `nbits` is zero. -/
def tableWords (nbits w : Nat) : List Word :=
  let x := w % 2 ^ nbits
  [BitVec.ofNat 32 x, BitVec.ofNat 32 (x / 2 ^ 32), BitVec.ofNat 32 (x / 2 ^ 64)]

/-- The instruction this decoder reads from a table word; none where it refuses. The words are laid
out as a little-endian byte channel carries them (R91) and read back from it. -/
def decodeTableWord (nbits w : Nat) : Option Instr :=
  match decode (deserialise (serialise (tableWords nbits w))).1 with
  | .command i _ => some i
  | _ => none

/-- The words of a table word that are the instruction's own: `1 + PAY(OP)` of them, one for an
undefined opcode (R112). -/
def tableCommand (nbits w : Nat) : List Word :=
  let ws := tableWords nbits w
  match Op.ofByte (opField (ws.getD 0 0#32)) with
  | some op => ws.take (1 + op.pay)
  | none => ws.take 1

end Sys2Proof
end

