-- ==== Sys2Proof/Machine/Rom.lean ====
section
/-! DEFINITION. The read-only tables of rule R43, transcribed from the spec's hexadecimal
(log entry 11). -/

namespace Sys2Proof.Machine

/-! ## The first quarter of the sine table (R143) -/

def sqTable0 : List F32 :=
  [0x00000000#32, 0x3BC90F88#32, 0x3C490E90#32, 0x3C96C9B6#32,
   0x3CC90AB0#32, 0x3CFB49BA#32, 0x3D16C32C#32, 0x3D2FE007#32,
   0x3D48FB30#32, 0x3D621469#32, 0x3D7B2B74#32, 0x3D8A200A#32,
   0x3D96A905#32, 0x3DA3308C#32, 0x3DAFB680#32, 0x3DBC3AC3#32,
   0x3DC8BD36#32, 0x3DD53DB9#32, 0x3DE1BC2E#32, 0x3DEE3876#32,
   0x3DFAB273#32, 0x3E039502#32, 0x3E09CF86#32, 0x3E1008B7#32,
   0x3E164083#32, 0x3E1C76DE#32, 0x3E22ABB6#32, 0x3E28DEFC#32,
   0x3E2F10A2#32, 0x3E354098#32, 0x3E3B6ECF#32, 0x3E419B37#32,
   0x3E47C5C2#32, 0x3E4DEE60#32, 0x3E541501#32, 0x3E5A3997#32,
   0x3E605C13#32, 0x3E667C66#32, 0x3E6C9A7F#32, 0x3E72B651#32,
   0x3E78CFCC#32, 0x3E7EE6E1#32, 0x3E827DC0#32, 0x3E8586CE#32,
   0x3E888E93#32, 0x3E8B9507#32, 0x3E8E9A22#32, 0x3E919DDD#32,
   0x3E94A031#32, 0x3E97A117#32, 0x3E9AA086#32, 0x3E9D9E78#32,
   0x3EA09AE5#32, 0x3EA395C5#32, 0x3EA68F12#32, 0x3EA986C4#32,
   0x3EAC7CD4#32, 0x3EAF713A#32, 0x3EB263EF#32, 0x3EB554EC#32,
   0x3EB8442A#32, 0x3EBB31A0#32, 0x3EBE1D4A#32, 0x3EC1071E#32]

def sqTable1 : List F32 :=
  [0x3EC3EF15#32, 0x3EC6D529#32, 0x3EC9B953#32, 0x3ECC9B8B#32,
   0x3ECF7BCA#32, 0x3ED25A09#32, 0x3ED53641#32, 0x3ED8106B#32,
   0x3EDAE880#32, 0x3EDDBE79#32, 0x3EE0924F#32, 0x3EE363FA#32,
   0x3EE63375#32, 0x3EE900B7#32, 0x3EEBCBBB#32, 0x3EEE9479#32,
   0x3EF15AEA#32, 0x3EF41F07#32, 0x3EF6E0CB#32, 0x3EF9A02D#32,
   0x3EFC5D27#32, 0x3EFF17B2#32, 0x3F00E7E4#32, 0x3F0242B1#32,
   0x3F039C3D#32, 0x3F04F484#32, 0x3F064B82#32, 0x3F07A136#32,
   0x3F08F59B#32, 0x3F0A48AD#32, 0x3F0B9A6B#32, 0x3F0CEAD0#32,
   0x3F0E39DA#32, 0x3F0F8784#32, 0x3F10D3CD#32, 0x3F121EB0#32,
   0x3F13682A#32, 0x3F14B039#32, 0x3F15F6D9#32, 0x3F173C07#32,
   0x3F187FC0#32, 0x3F19C200#32, 0x3F1B02C6#32, 0x3F1C420C#32,
   0x3F1D7FD1#32, 0x3F1EBC12#32, 0x3F1FF6CB#32, 0x3F212FF9#32,
   0x3F226799#32, 0x3F239DA9#32, 0x3F24D225#32, 0x3F26050A#32,
   0x3F273656#32, 0x3F286605#32, 0x3F299415#32, 0x3F2AC082#32,
   0x3F2BEB4A#32, 0x3F2D1469#32, 0x3F2E3BDE#32, 0x3F2F61A5#32,
   0x3F3085BB#32, 0x3F31A81D#32, 0x3F32C8C9#32, 0x3F33E7BC#32]

def sqTable2 : List F32 :=
  [0x3F3504F3#32, 0x3F36206C#32, 0x3F373A23#32, 0x3F385216#32,
   0x3F396842#32, 0x3F3A7CA4#32, 0x3F3B8F3B#32, 0x3F3CA003#32,
   0x3F3DAEF9#32, 0x3F3EBC1B#32, 0x3F3FC767#32, 0x3F40D0DA#32,
   0x3F41D870#32, 0x3F42DE29#32, 0x3F43E200#32, 0x3F44E3F5#32,
   0x3F45E403#32, 0x3F46E22A#32, 0x3F47DE65#32, 0x3F48D8B3#32,
   0x3F49D112#32, 0x3F4AC77F#32, 0x3F4BBBF8#32, 0x3F4CAE79#32,
   0x3F4D9F02#32, 0x3F4E8D90#32, 0x3F4F7A1F#32, 0x3F5064AF#32,
   0x3F514D3D#32, 0x3F5233C6#32, 0x3F531849#32, 0x3F53FAC3#32,
   0x3F54DB31#32, 0x3F55B993#32, 0x3F5695E5#32, 0x3F577026#32,
   0x3F584853#32, 0x3F591E6A#32, 0x3F59F26A#32, 0x3F5AC450#32,
   0x3F5B941A#32, 0x3F5C61C7#32, 0x3F5D2D53#32, 0x3F5DF6BE#32,
   0x3F5EBE05#32, 0x3F5F8327#32, 0x3F604621#32, 0x3F6106F2#32,
   0x3F61C598#32, 0x3F628210#32, 0x3F633C5A#32, 0x3F63F473#32,
   0x3F64AA59#32, 0x3F655E0B#32, 0x3F660F88#32, 0x3F66BECC#32,
   0x3F676BD8#32, 0x3F6816A8#32, 0x3F68BF3C#32, 0x3F696591#32,
   0x3F6A09A7#32, 0x3F6AAB7B#32, 0x3F6B4B0C#32, 0x3F6BE858#32]

def sqTable3 : List F32 :=
  [0x3F6C835E#32, 0x3F6D1C1D#32, 0x3F6DB293#32, 0x3F6E46BE#32,
   0x3F6ED89E#32, 0x3F6F6830#32, 0x3F6FF573#32, 0x3F708066#32,
   0x3F710908#32, 0x3F718F57#32, 0x3F721352#32, 0x3F7294F8#32,
   0x3F731447#32, 0x3F73913F#32, 0x3F740BDD#32, 0x3F748422#32,
   0x3F74FA0B#32, 0x3F756D97#32, 0x3F75DEC6#32, 0x3F764D97#32,
   0x3F76BA07#32, 0x3F772417#32, 0x3F778BC5#32, 0x3F77F110#32,
   0x3F7853F8#32, 0x3F78B47B#32, 0x3F791298#32, 0x3F796E4E#32,
   0x3F79C79D#32, 0x3F7A1E84#32, 0x3F7A7302#32, 0x3F7AC516#32,
   0x3F7B14BE#32, 0x3F7B61FC#32, 0x3F7BACCD#32, 0x3F7BF531#32,
   0x3F7C3B28#32, 0x3F7C7EB0#32, 0x3F7CBFC9#32, 0x3F7CFE73#32,
   0x3F7D3AAC#32, 0x3F7D7474#32, 0x3F7DABCC#32, 0x3F7DE0B1#32,
   0x3F7E1324#32, 0x3F7E4323#32, 0x3F7E70B0#32, 0x3F7E9BC9#32,
   0x3F7EC46D#32, 0x3F7EEA9D#32, 0x3F7F0E58#32, 0x3F7F2F9D#32,
   0x3F7F4E6D#32, 0x3F7F6AC7#32, 0x3F7F84AB#32, 0x3F7F9C18#32,
   0x3F7FB10F#32, 0x3F7FC38F#32, 0x3F7FD397#32, 0x3F7FE129#32,
   0x3F7FEC43#32, 0x3F7FF4E6#32, 0x3F7FFB11#32, 0x3F7FFEC4#32]

def sqTable4 : List F32 :=
  [0x3F800000#32]

/-- `SQ[0..256]` of R143. -/
def sqTable : List F32 :=
  sqTable0 ++ sqTable1 ++ sqTable2 ++ sqTable3 ++ sqTable4

/-- `SINE[i]` for the first half, 0 ≤ i ≤ 512. -/
def sineHalf (i : Nat) : F32 := if i ≤ 256 then sqTable.getD i 0#32 else sqTable.getD (512 - i) 0#32

/-- `SINE[i]` of R143 for `i` in 0..1023, by the symmetries of the sine. -/
def sineEntry (i : Nat) : F32 := if i ≤ 512 then sineHalf i else fneg (sineHalf (i - 512))

/-! ## Note frequencies (R304) -/

def mtofTable0 : List F32 :=
  [0x4102D013#32, 0x410A9760#32, 0x4112D517#32, 0x411B9041#32,
   0x4124D054#32, 0x412E9D37#32, 0x4138FF49#32, 0x4143FF6A#32,
   0x414FA700#32, 0x415C0000#32, 0x416914F6#32, 0x4176F110#32,
   0x4182D013#32, 0x418A9760#32, 0x4192D517#32, 0x419B9041#32,
   0x41A4D054#32, 0x41AE9D37#32, 0x41B8FF49#32, 0x41C3FF6A#32,
   0x41CFA700#32, 0x41DC0000#32, 0x41E914F6#32, 0x41F6F110#32,
   0x4202D013#32, 0x420A9760#32, 0x4212D517#32, 0x421B9041#32,
   0x4224D054#32, 0x422E9D37#32, 0x4238FF49#32, 0x4243FF6A#32,
   0x424FA700#32, 0x425C0000#32, 0x426914F6#32, 0x4276F110#32,
   0x4282D013#32, 0x428A9760#32, 0x4292D517#32, 0x429B9041#32,
   0x42A4D054#32, 0x42AE9D37#32, 0x42B8FF49#32, 0x42C3FF6A#32,
   0x42CFA700#32, 0x42DC0000#32, 0x42E914F6#32, 0x42F6F110#32,
   0x4302D013#32, 0x430A9760#32, 0x4312D517#32, 0x431B9041#32,
   0x4324D054#32, 0x432E9D37#32, 0x4338FF49#32, 0x4343FF6A#32,
   0x434FA700#32, 0x435C0000#32, 0x436914F6#32, 0x4376F110#32,
   0x4382D013#32, 0x438A9760#32, 0x4392D517#32, 0x439B9041#32]

def mtofTable1 : List F32 :=
  [0x43A4D054#32, 0x43AE9D37#32, 0x43B8FF49#32, 0x43C3FF6A#32,
   0x43CFA700#32, 0x43DC0000#32, 0x43E914F6#32, 0x43F6F110#32,
   0x4402D013#32, 0x440A9760#32, 0x4412D517#32, 0x441B9041#32,
   0x4424D054#32, 0x442E9D37#32, 0x4438FF49#32, 0x4443FF6A#32,
   0x444FA700#32, 0x445C0000#32, 0x446914F6#32, 0x4476F110#32,
   0x4482D013#32, 0x448A9760#32, 0x4492D517#32, 0x449B9041#32,
   0x44A4D054#32, 0x44AE9D37#32, 0x44B8FF49#32, 0x44C3FF6A#32,
   0x44CFA700#32, 0x44DC0000#32, 0x44E914F6#32, 0x44F6F110#32,
   0x4502D013#32, 0x450A9760#32, 0x4512D517#32, 0x451B9041#32,
   0x4524D054#32, 0x452E9D37#32, 0x4538FF49#32, 0x4543FF6A#32,
   0x454FA700#32, 0x455C0000#32, 0x456914F6#32, 0x4576F110#32,
   0x4582D013#32, 0x458A9760#32, 0x4592D517#32, 0x459B9041#32,
   0x45A4D054#32, 0x45AE9D37#32, 0x45B8FF49#32, 0x45C3FF6A#32,
   0x45CFA700#32, 0x45DC0000#32, 0x45E914F6#32, 0x45F6F110#32,
   0x4602D013#32, 0x460A9760#32, 0x4612D517#32, 0x461B9041#32,
   0x4624D054#32, 0x462E9D37#32, 0x4638FF49#32, 0x4643FF6A#32]

/-- `MTOF[0..127]` of R304, in Hz. -/
def mtofTable : List F32 :=
  mtofTable0 ++ mtofTable1

/-- `MTOF[n]`. -/
def mtof (n : Nat) : F32 := mtofTable.getD n 0#32

/-! ## Fine-detune ratios (R305) -/

def centTable0 : List F32 :=
  [0x3F78B651#32, 0x3F78D348#32, 0x3F78F043#32, 0x3F790D41#32,
   0x3F792A42#32, 0x3F794746#32, 0x3F79644E#32, 0x3F79815A#32,
   0x3F799E68#32, 0x3F79BB7B#32, 0x3F79D890#32, 0x3F79F5A9#32,
   0x3F7A12C5#32, 0x3F7A2FE5#32, 0x3F7A4D08#32, 0x3F7A6A2E#32,
   0x3F7A8758#32, 0x3F7AA486#32, 0x3F7AC1B6#32, 0x3F7ADEEA#32,
   0x3F7AFC22#32, 0x3F7B195C#32, 0x3F7B369B#32, 0x3F7B53DC#32,
   0x3F7B7121#32, 0x3F7B8E6A#32, 0x3F7BABB6#32, 0x3F7BC905#32,
   0x3F7BE658#32, 0x3F7C03AE#32, 0x3F7C2107#32, 0x3F7C3E64#32,
   0x3F7C5BC5#32, 0x3F7C7929#32, 0x3F7C9690#32, 0x3F7CB3FA#32,
   0x3F7CD169#32, 0x3F7CEEDA#32, 0x3F7D0C4F#32, 0x3F7D29C7#32,
   0x3F7D4743#32, 0x3F7D64C2#32, 0x3F7D8245#32, 0x3F7D9FCB#32,
   0x3F7DBD55#32, 0x3F7DDAE2#32, 0x3F7DF872#32, 0x3F7E1606#32,
   0x3F7E339D#32, 0x3F7E5138#32, 0x3F7E6ED6#32, 0x3F7E8C78#32,
   0x3F7EAA1D#32, 0x3F7EC7C5#32, 0x3F7EE571#32, 0x3F7F0321#32,
   0x3F7F20D4#32, 0x3F7F3E8A#32, 0x3F7F5C44#32, 0x3F7F7A01#32,
   0x3F7F97C2#32, 0x3F7FB586#32, 0x3F7FD34E#32, 0x3F7FF119#32]

def centTable1 : List F32 :=
  [0x3F800774#32, 0x3F80165D#32, 0x3F802548#32, 0x3F803434#32,
   0x3F804322#32, 0x3F805213#32, 0x3F806104#32, 0x3F806FF8#32,
   0x3F807EED#32, 0x3F808DE4#32, 0x3F809CDD#32, 0x3F80ABD7#32,
   0x3F80BAD3#32, 0x3F80C9D1#32, 0x3F80D8D1#32, 0x3F80E7D2#32,
   0x3F80F6D6#32, 0x3F8105DA#32, 0x3F8114E1#32, 0x3F8123EA#32,
   0x3F8132F4#32, 0x3F814200#32, 0x3F81510D#32, 0x3F81601D#32,
   0x3F816F2E#32, 0x3F817E41#32, 0x3F818D56#32, 0x3F819C6C#32,
   0x3F81AB84#32, 0x3F81BA9E#32, 0x3F81C9BA#32, 0x3F81D8D7#32,
   0x3F81E7F7#32, 0x3F81F718#32, 0x3F82063B#32, 0x3F82155F#32,
   0x3F822485#32, 0x3F8233AD#32, 0x3F8242D7#32, 0x3F825203#32,
   0x3F826130#32, 0x3F82705F#32, 0x3F827F90#32, 0x3F828EC3#32,
   0x3F829DF7#32, 0x3F82AD2E#32, 0x3F82BC66#32, 0x3F82CB9F#32,
   0x3F82DADB#32, 0x3F82EA18#32, 0x3F82F957#32, 0x3F830898#32,
   0x3F8317DB#32, 0x3F83271F#32, 0x3F833665#32, 0x3F8345AD#32,
   0x3F8354F7#32, 0x3F836442#32, 0x3F837390#32, 0x3F8382DF#32,
   0x3F839230#32, 0x3F83A182#32, 0x3F83B0D7#32, 0x3F83C02D#32]

/-- `CENT_RATIO[0..127]` of R305. -/
def centTable : List F32 :=
  centTable0 ++ centTable1

/-- `CENT_RATIO[r]`. -/
def centRatio (r : Nat) : F32 := centTable.getD r 0#32

end Sys2Proof.Machine
end

