-- ==== Sys2Proof/Machine/Coefficients.lean ====
section
/-! DEFINITION. The conversions from engineering units to unit coefficients: phase (R141, R142,
R145), sine lookup (R144), envelope increment (R201), filter coefficients (R241, R242, R251, R252),
velocity gain (R306). `sr` is `SAMPLE_RATE`. -/

namespace Sys2Proof.Machine

/-- `frac24(a)` of R141: the top 24 bits of a phase as a fraction of a cycle. -/
def frac24 (a : Word) : F32 := fmul (i2f (a.toNat / 256 : Nat)) twoNeg24

/-- `rad2acc(x)` of R142: radians to accumulator units, 0 for a non-finite value. -/
def rad2acc (x : F32) : Int :=
  if finite x then rneInt (fint x * rad2accInt) (2 ^ 149) else 0

/-- `sinlut(a)` of R144. -/
def sinlut (a : Word) : F32 :=
  let i := a.toNat / 2 ^ 22
  let fr := fmul (i2f (a.toNat % 2 ^ 22 : Nat)) twoNeg22
  let l0 := sineEntry i
  let l1 := sineEntry ((i + 1) % 1024)
  fadd l0 (fmul fr (fsub l1 l0))

/-- `inc_of(fr)` of R145. -/
def incOf (sr : Nat) (fr : F32) : Word :=
  let fc := clampf fr fZero (nyq32 sr)
  u32 (rneInt (fint fc * 2 ^ 32) (2 ^ 149 * sr))

/-- `tinc(T)` of R201. -/
def tinc (sr : Nat) (t : F32) : F32 :=
  let tc := clampf t fZero envTimeMax
  let p := fmul tc (sr32 sr)
  if fle p fOne then fOne else fdiv fOne p

/-- `coef_ladder(fc)` of R241: the clamped cutoff and the stage coefficient, by the rule's pseudocode at
every sample rate, `FC_MAX` included (DEDUCED, log entry 16). -/
def coefLadder (sr : Nat) (fc : F32) : F32 × F32 :=
  let fcc := clampf fc fZero (fcMax sr)
  let w := fdiv (fmul fcc twoPi32) (sr32 sr)
  let g := fdiv w (fadd fOne w)
  (fcc, g)

/-- `coef_svf(fc)` of R251: the clamped cutoff and the frequency coefficient. -/
def coefSvf (sr : Nat) (fc : F32) : F32 × F32 :=
  let fcc := clampf fc fZero (fcMax sr)
  let p := u32 (rneInt (fint fcc * 2 ^ 31) (2 ^ 149 * sr))
  let f := fmin (fmul fTwo (sinlut p)) svfFMax
  (fcc, f)

/-- `lim(x)` of R242: the filter state limit. -/
def lim (x : F32) : F32 := clampf x (fneg filterStateLimit) filterStateLimit

/-- The ladder's feedback gain of a resonance (R252). -/
def ladderGain (res : F32) : F32 := fmul fFour res

/-- The SVF's damping of a resonance (R252). -/
def svfDamping (res : F32) : F32 := fmul fTwo (fsub fOne res)

/-- A resonance request held to [0, RES_MAX] (R245). -/
def clampRes (r : F32) : F32 := clampf r fZero resMax

/-- A request held to [0, 1] (R148, R149, R204, R281). -/
def clampUnit (x : F32) : F32 := clampf x fZero fOne

/-- `vg(vel)` of R306. -/
def velGain (vel : Raw) : F32 := f32 vel.toNat 127

end Sys2Proof.Machine
end

