-- ==== Sys2Proof/Machine/ResetValues.lean ====
section
/-! DEFINITION. The reset value of every unit (70_reset_and_hazards.md R470, 10_state.md R33 to R41). -/

namespace Sys2Proof.Machine

/-- R470 item 1. -/
def panelReset : Panel := Panel.ofRaw resetRaw

/-- An oscillator at reset with a given pulse width (R34). -/
def oscReset (pw : F32) : Osc :=
  { acc := 0#32, inc := 0#32, wave := .sine, amp := fOne, pw := pw, last := fZero,
    eoc := false, eor := false }

/-- R470 item 3: a voice oscillator, `pw` = f32(64/127). -/
def voiceOscReset : Osc := oscReset 0x3F010204#32

/-- R470 item 8: the LFO, `pw` = 0.5. -/
def lfoReset : Osc := oscReset fHalf

/-- R470 item 4. -/
def envReset : Env :=
  { stage := .idle, level := fZero, gate := false, aInc := fOne, dInc := fOne, rInc := fOne,
    sus := fOne }

/-- R470 item 5. -/
def ladderReset (sr : Nat) : Ladder :=
  let c := coefLadder sr (fcMax sr)
  { s0 := fZero, s1 := fZero, s2 := fZero, s3 := fZero, fc := c.1, g := c.2, res := fZero,
    k := fZero }

/-- R470 item 6. -/
def svfReset (sr : Nat) : Svf :=
  let c := coefSvf sr (fcMax sr)
  { low := fZero, band := fZero, high := fZero, fc := c.1, f := c.2, res := fZero, q := fTwo }

/-- R470 item 7: the noise unit of voice `v`. -/
def noiseReset (v : Nat) : Noise := { state := BitVec.ofNat 32 (v + 1), amp := fZero }

/-- R470 items 2 to 7: voice `v`. -/
def voiceReset (sr v : Nat) : Voice :=
  { osc0 := voiceOscReset, osc1 := voiceOscReset, env0 := envReset, env1 := envReset,
    ladder := ladderReset sr, svf := svfReset sr, noise := noiseReset v,
    note := 0#7, vel := 0#7, fnote := fZero }

/-- The pool of `nv` voices at reset. -/
def voicesReset (sr nv : Nat) : List Voice := (List.range nv).map (voiceReset sr)

end Sys2Proof.Machine
end

