-- ==== Sys2Proof/Machine/State.lean ====
section
/-! DEFINITION. The state of the core as plain data (10_state.md R30), its stops, and its reset. -/

namespace Sys2Proof.Machine

/-- The reasons the machine stops with a fault. There is none: "No command raises an exception, a
trap, a fault or an error response, for any operand value and in any state" (R440). Safe: nothing
can raise it. -/
inductive Fault where
deriving DecidableEq, Repr

/-- The reasons an instruction has no meaning. -/
inductive Refusal where
  /-- Raised by an arm of `exec` whose instruction has no meaning yet; no arm raises it. Safe. -/
  | notModelled (mnemonic : String)
deriving DecidableEq, Repr

/-- The state: the tuple of R30, the parameters it is run with (R6), and the command words that have
arrived and are not performed (R46, R424). -/
structure State where
  /-- `SAMPLE_RATE` in Hz (R6); no command writes it (log entry 1). -/
  sampleRate : Nat
  /-- The parameter panel `P` (R33). -/
  panel : Panel
  /-- The global `LFO` (R41). -/
  lfo : Osc
  /-- `LFO_LAST`: the LFO output of the most recent sample tick (R41). -/
  lfoLast : F32
  /-- The voices `V[0..NV−1]` (R39); `NUM_VOICES` is the length (R340, log entry 1). -/
  voices : List Voice
  /-- `CPOS`: the command words consumed (R31). -/
  cpos : Nat
  /-- `AUDIO_OUT`, first sample first (R32). -/
  audioOut : List F32
  /-- `RESP_OUT`, first word first (R32). -/
  respOut : List Word
  /-- The words of the command stream that have arrived and are not consumed (log entry 2). -/
  stream : List Word
  /-- The consumed words of a command whose payload has not all arrived (R424, log entry 3). -/
  partialCmd : List Word
deriving DecidableEq, Repr

/-- `NV`, the voice pool size (R340). -/
def State.nv (s : State) : Nat := s.voices.length

/-- The parameters the core runs with (R6). -/
def State.config (s : State) : Config := { sampleRate := s.sampleRate, numVoices := s.nv }

/-- Power-on with given parameters (R470): every field at its reset value, `CPOS` 0, both output
streams empty, and no command word arrived. -/
def State.resetFor (c : Config) : State :=
  { sampleRate := c.sampleRate
    panel := panelReset
    lfo := lfoReset
    lfoLast := fZero
    voices := voicesReset c.sampleRate c.numVoices
    cpos := 0
    audioOut := []
    respOut := []
    stream := []
    partialCmd := [] }

/-- Power-on with the default parameters of R6 (log entry 1). -/
def State.reset : State := State.resetFor Config.default

end Sys2Proof.Machine
end

