-- ==== Sys2Proof/Machine/Operands.lean ====
section
/-! DEFINITION. Operand forms: clamped fields (R115), unit selects and targets (R117 to R120). -/

namespace Sys2Proof.Machine

/-- A note, velocity or value field, clamped to 127 (R115). -/
def clampRaw (b : Byte) : Raw := BitVec.ofNat 7 (min b.toNat 127)

/-- Which of a voice's two units of a kind field A selects. -/
inductive Slot where
  | zero | one
deriving DecidableEq, Repr

/-- The slot of a field A that is 0 or 1. -/
def slotOf (a : Byte) : Slot := if a = 0#8 then .zero else .one

/-- The unit an oscillator command addresses. -/
inductive OscTarget where
  | voice (v : Nat) (k : Slot)
  | lfo
deriving DecidableEq, Repr

/-- R117: a voice's oscillator, or the LFO for TGT = 0xFF and A = 0; `none` if invalid. -/
def oscTarget (nv : Nat) (tgt a : Byte) : Option OscTarget :=
  if tgt.toNat < nv ∧ a.toNat ≤ 1 then some (.voice tgt.toNat (slotOf a))
  else if tgt = 0xFF#8 ∧ a = 0#8 then some .lfo
  else none

/-- R118 and R119: the voice and the slot of an envelope or filter command; `none` if invalid. -/
def unitTarget (nv : Nat) (tgt a : Byte) : Option (Nat × Slot) :=
  if tgt.toNat < nv ∧ a.toNat ≤ 1 then some (tgt.toNat, slotOf a) else none

/-- R120: the voice of a noise or voice command; `none` if invalid. -/
def voiceTarget (nv : Nat) (tgt : Byte) : Option Nat :=
  if tgt.toNat < nv then some tgt.toNat else none

/-- `V.osc[k]`. -/
def Voice.osc (v : Voice) : Slot → Osc
  | .zero => v.osc0
  | .one => v.osc1

/-- Write `V.osc[k]`. -/
def Voice.setOsc (v : Voice) (k : Slot) (o : Osc) : Voice :=
  match k with
  | .zero => { v with osc0 := o }
  | .one => { v with osc1 := o }

/-- `V.env[k]`. -/
def Voice.env (v : Voice) : Slot → Env
  | .zero => v.env0
  | .one => v.env1

/-- Write `V.env[k]`. -/
def Voice.setEnv (v : Voice) (k : Slot) (e : Env) : Voice :=
  match k with
  | .zero => { v with env0 := e }
  | .one => { v with env1 := e }

end Sys2Proof.Machine
end

