-- ==== Sys2Proof/Machine/Ops.lean ====
section
/-! DEFINITION. The shared operations over the state: emitting words, and running a unit operation on
the unit a command's target selects. Every targeted command goes through one of the `on…` operations,
which give an invalid target its one meaning (R121).
No command takes or returns from an exception (R440, R444), so there is no operation for it. -/

namespace Sys2Proof.Machine

/-- `emit_resp`, one word after the other (R10, R32). -/
def State.respond (s : State) (ws : List Word) : State := { s with respOut := s.respOut ++ ws }

/-- `emit_audio` (R10, R32). -/
def State.emitAudio (s : State) (y : F32) : State := { s with audioOut := s.audioOut ++ [y] }

/-- A command whose target is invalid: no state change, and its documented number of response words,
each `0xFFFFFFFF` (R121, R116). -/
def State.invalidTarget (s : State) (op : Op) : State :=
  s.respond (List.replicate op.resp invalidWord)

/-- Replace voice `v`. -/
def State.setVoice (s : State) (v : Nat) (x : Voice) : State :=
  { s with voices := s.voices.set v x }

/-- Run `f` on voice `v`, storing the voice and emitting the words it answers. -/
def onVoiceAt (s : State) (op : Op) (v : Nat) (f : Voice → Voice × List Word) : State :=
  match s.voices[v]? with
  | none => s.invalidTarget op
  | some x => (s.setVoice v (f x).1).respond (f x).2

/-- Run `f` on the voice of R120. -/
def onVoice (s : State) (op : Op) (tgt : Byte) (f : Voice → Voice × List Word) : State :=
  match voiceTarget s.nv tgt with
  | none => s.invalidTarget op
  | some v => onVoiceAt s op v f

/-- Run `f` on the oscillator of R117. -/
def onOsc (s : State) (op : Op) (tgt a : Byte) (f : Osc → Osc × List Word) : State :=
  match oscTarget s.nv tgt a with
  | none => s.invalidTarget op
  | some .lfo => { s with lfo := (f s.lfo).1 }.respond (f s.lfo).2
  | some (.voice v k) => onVoiceAt s op v fun x => (x.setOsc k (f (x.osc k)).1, (f (x.osc k)).2)

/-- Run `f` on the envelope of R118. -/
def onEnv (s : State) (op : Op) (tgt a : Byte) (f : Env → Env × List Word) : State :=
  match unitTarget s.nv tgt a with
  | none => s.invalidTarget op
  | some (v, k) => onVoiceAt s op v fun x => (x.setEnv k (f (x.env k)).1, (f (x.env k)).2)

/-- Run `fl` on the ladder or `fs` on the state-variable filter of R119. -/
def onFilter (s : State) (op : Op) (tgt a : Byte) (fl : Ladder → Ladder × List Word)
    (fs : Svf → Svf × List Word) : State :=
  match unitTarget s.nv tgt a with
  | none => s.invalidTarget op
  | some (v, .zero) =>
    onVoiceAt s op v fun x => ({ x with ladder := (fl x.ladder).1 }, (fl x.ladder).2)
  | some (v, .one) => onVoiceAt s op v fun x => ({ x with svf := (fs x.svf).1 }, (fs x.svf).2)

/-- Run `f` on the noise unit of R120. -/
def onNoise (s : State) (op : Op) (tgt : Byte) (f : Noise → Noise × List Word) : State :=
  onVoice s op tgt fun x => ({ x with noise := (f x.noise).1 }, (f x.noise).2)

/-- Run a step that answers one sample, and emit that sample as the response. -/
def sampleResponse {σ : Type} (r : σ × F32) : σ × List Word := (r.1, [r.2])

end Sys2Proof.Machine
end

