-- ==== Sys2Proof/Machine/Envelope.lean ====
section
/-! DEFINITION. The envelope generator (41_envelope.md): its tick and its commands. -/

namespace Sys2Proof.Machine

/-- `set_gate(E, g)`: only a change of the gate makes a transition (R205). -/
def setGate (e : Env) (g : Bool) : Env :=
  if g && !e.gate then { e with stage := .attack, gate := g }
  else if !g && e.gate && decide (e.stage ≠ .idle) then { e with stage := .release, gate := g }
  else { e with gate := g }

/-- `env_tick(E)`: the new unit; the amplitude it returns is the new `level` (R206). -/
def envTick (e : Env) : Env :=
  match e.stage with
  | .idle => { e with level := fZero }
  | .attack =>
    let l := fadd e.level e.aInc
    if fle fOne l then { e with level := fOne, stage := .decay } else { e with level := l }
  | .decay =>
    let l := fsub e.level e.dInc
    if fle l e.sus then { e with level := e.sus, stage := .sustain } else { e with level := l }
  | .sustain => { e with level := e.sus }
  | .release =>
    let l := fsub e.level e.rInc
    if fle l fZero then { e with level := fZero, stage := .idle } else { e with level := l }

/-- `Process(gate)`: the gate, then one tick, answering the amplitude (R210). -/
def envProcess (e : Env) (g : Bool) : Env × F32 :=
  let e' := envTick (setGate e g)
  (e', e'.level)

/-- The block form of R211 with a gate per sample. -/
def envBlock (e : Env) : List Bool → Env × List F32
  | [] => (e, [])
  | g :: gs =>
    let h := envProcess e g
    let t := envBlock h.1 gs
    (t.1, h.2 :: t.2)

/-- `E.a_inc <- tinc(T)` (R202). -/
def envSetAttack (sr : Nat) (e : Env) (t : F32) : Env := { e with aInc := tinc sr t }

/-- `E.d_inc <- tinc(T)` (R203). -/
def envSetDecay (sr : Nat) (e : Env) (t : F32) : Env := { e with dInc := tinc sr t }

/-- `E.sus` clamped to [0, 1] (R204). -/
def envSetSustain (e : Env) (l : F32) : Env := { e with sus := clampUnit l }

/-- `E.r_inc <- tinc(T)` (R208). -/
def envSetRelease (sr : Nat) (e : Env) (t : F32) : Env := { e with rInc := tinc sr t }

/-- The six words of `ENV_READ` (R212). -/
def envWords (e : Env) : List Word := [envFlagWord e, e.level, e.aInc, e.dInc, e.rInc, e.sus]

/-! ## Commands -/

/-- `ENV_SET_ATTACK` (R202). -/
def execEnvSetAttack (tgt env : Byte) (time : Word) (s : State) :
    Host.Outcome State Fault Refusal :=
  .next (onEnv s .envSetAttack tgt env fun e => (envSetAttack s.sampleRate e time, []))

/-- `ENV_SET_DECAY` (R203). -/
def execEnvSetDecay (tgt env : Byte) (time : Word) (s : State) :
    Host.Outcome State Fault Refusal :=
  .next (onEnv s .envSetDecay tgt env fun e => (envSetDecay s.sampleRate e time, []))

/-- `ENV_SET_SUSTAIN` (R204). -/
def execEnvSetSustain (tgt env : Byte) (level : Word) (s : State) :
    Host.Outcome State Fault Refusal :=
  .next (onEnv s .envSetSustain tgt env fun e => (envSetSustain e level, []))

/-- `ENV_SET_RELEASE` (R208). -/
def execEnvSetRelease (tgt env : Byte) (time : Word) (s : State) :
    Host.Outcome State Fault Refusal :=
  .next (onEnv s .envSetRelease tgt env fun e => (envSetRelease s.sampleRate e time, []))

/-- `ENV_SET_GATE` (R209). -/
def execEnvSetGate (tgt env : Byte) (gate : Bool) (s : State) : Host.Outcome State Fault Refusal :=
  .next (onEnv s .envSetGate tgt env fun e => (setGate e gate, []))

/-- `ENV_PROCESS` (R210). -/
def execEnvProcess (tgt env : Byte) (gate : Bool) (s : State) : Host.Outcome State Fault Refusal :=
  .next (onEnv s .envProcess tgt env fun e => sampleResponse (envProcess e gate))

/-- `ENV_READ` (R212). -/
def execEnvRead (tgt env : Byte) (s : State) : Host.Outcome State Fault Refusal :=
  .next (onEnv s .envRead tgt env fun e => (e, envWords e))

end Sys2Proof.Machine
end

