-- ==== Sys2Proof/Machine/Filter.lean ====
section
/-! DEFINITION. The ladder and the state-variable filter (42_filter.md): their steps and commands. -/

namespace Sys2Proof.Machine

/-! ## Steps -/

/-- `ladder_step(LF, x, g)` (R243): the four stages in order, each from the new value of the one
before it, the feedback from the old `s[3]`. -/
def ladderStep (lf : Ladder) (x g : F32) : Ladder × F32 :=
  let u := fsub x (fmul lf.k lf.s3)
  let s0 := lim (fadd lf.s0 (fmul g (fsub u lf.s0)))
  let s1 := lim (fadd lf.s1 (fmul g (fsub s0 lf.s1)))
  let s2 := lim (fadd lf.s2 (fmul g (fsub s1 lf.s2)))
  let s3 := lim (fadd lf.s3 (fmul g (fsub s2 lf.s3)))
  ({ lf with s0 := s0, s1 := s1, s2 := s2, s3 := s3 }, s3)

/-- `svf_step(SF, x, f)` (R253): low from the old band, high from the new low and the old band, band
from the new high. -/
def svfStep (sf : Svf) (x f : F32) : Svf × F32 :=
  let low := lim (fadd sf.low (fmul f sf.band))
  let high := lim (fsub (fsub x low) (fmul sf.q sf.band))
  let band := lim (fadd (fmul f high) sf.band)
  ({ sf with low := low, high := high, band := band }, low)

/-! ## Setting operations -/

/-- `(LF.fc, LF.g) <- coef_ladder(fc)` (R244). -/
def ladderSetFreq (sr : Nat) (lf : Ladder) (fc : F32) : Ladder :=
  { lf with fc := (coefLadder sr fc).1, g := (coefLadder sr fc).2 }

/-- `(SF.fc, SF.f) <- coef_svf(fc)` (R244). -/
def svfSetFreq (sr : Nat) (sf : Svf) (fc : F32) : Svf :=
  { sf with fc := (coefSvf sr fc).1, f := (coefSvf sr fc).2 }

/-- The ladder's resonance and feedback gain (R245, R252). -/
def ladderSetRes (lf : Ladder) (r : F32) : Ladder :=
  { lf with res := clampRes r, k := ladderGain (clampRes r) }

/-- The SVF's resonance and damping (R245, R252). -/
def svfSetRes (sf : Svf) (r : F32) : Svf :=
  { sf with res := clampRes r, q := svfDamping (clampRes r) }

/-! ## Process operations -/

/-- One ladder sample with the stored coefficient, the input limited (R246). -/
def ladderProcess (lf : Ladder) (x : F32) : Ladder × F32 := ladderStep lf (lim x) lf.g

/-- One SVF sample with the stored coefficient, the input limited (R246). -/
def svfProcess (sf : Svf) (x : F32) : Svf × F32 := svfStep sf (lim x) sf.f

/-- One ladder sample with a cutoff for this sample only (R247). -/
def ladderProcessMod (sr : Nat) (lf : Ladder) (x fc : F32) : Ladder × F32 :=
  ladderStep lf (lim x) (coefLadder sr fc).2

/-- One SVF sample with a cutoff for this sample only (R247). -/
def svfProcessMod (sr : Nat) (sf : Svf) (x fc : F32) : Svf × F32 :=
  svfStep sf (lim x) (coefSvf sr fc).2

/-- The block form `ProcessBlock(in, fcBuf, n)` on the ladder (R248). -/
def ladderBlock (sr : Nat) (lf : Ladder) : List (F32 × F32) → Ladder × List F32
  | [] => (lf, [])
  | (x, fc) :: rest =>
    let h := ladderProcessMod sr lf x fc
    let t := ladderBlock sr h.1 rest
    (t.1, h.2 :: t.2)

/-- The block form `ProcessBlock(in, fcBuf, n)` on the SVF (R248). -/
def svfBlock (sr : Nat) (sf : Svf) : List (F32 × F32) → Svf × List F32
  | [] => (sf, [])
  | (x, fc) :: rest =>
    let h := svfProcessMod sr sf x fc
    let t := svfBlock sr h.1 rest
    (t.1, h.2 :: t.2)

/-- The six words of `FLT_READ` with A = 0 (R249). -/
def ladderWords (lf : Ladder) : List Word := [lf.s0, lf.s1, lf.s2, lf.s3, lf.fc, lf.res]

/-- The six words of `FLT_READ` with A = 1 (R249). -/
def svfWords (sf : Svf) : List Word := [sf.low, sf.band, sf.high, 0#32, sf.fc, sf.res]

/-! ## Commands -/

/-- `FLT_SET_FREQ` (R244). -/
def execFltSetFreq (tgt kind : Byte) (fc : Word) (s : State) : Host.Outcome State Fault Refusal :=
  .next (onFilter s .fltSetFreq tgt kind (fun lf => (ladderSetFreq s.sampleRate lf fc, []))
    fun sf => (svfSetFreq s.sampleRate sf fc, []))

/-- `FLT_SET_RES` (R245). -/
def execFltSetRes (tgt kind : Byte) (res : Word) (s : State) : Host.Outcome State Fault Refusal :=
  .next (onFilter s .fltSetRes tgt kind (fun lf => (ladderSetRes lf res, []))
    fun sf => (svfSetRes sf res, []))

/-- `FLT_PROCESS` (R246). -/
def execFltProcess (tgt kind : Byte) (x : Word) (s : State) : Host.Outcome State Fault Refusal :=
  .next (onFilter s .fltProcess tgt kind (fun lf => sampleResponse (ladderProcess lf x))
    fun sf => sampleResponse (svfProcess sf x))

/-- `FLT_PROCESS_MOD` (R247). -/
def execFltProcessMod (tgt kind : Byte) (x fc : Word) (s : State) :
    Host.Outcome State Fault Refusal :=
  .next (onFilter s .fltProcessMod tgt kind
    (fun lf => sampleResponse (ladderProcessMod s.sampleRate lf x fc))
    fun sf => sampleResponse (svfProcessMod s.sampleRate sf x fc))

/-- `FLT_READ` (R249). -/
def execFltRead (tgt kind : Byte) (s : State) : Host.Outcome State Fault Refusal :=
  .next (onFilter s .fltRead tgt kind (fun lf => (lf, ladderWords lf)) fun sf => (sf, svfWords sf))

end Sys2Proof.Machine
end

