-- ==== Sys2Proof/Machine/Noise.lean ====
section
/-! DEFINITION. The white-noise source (43_noise.md). -/

namespace Sys2Proof.Machine

/-- One shift of the Galois LFSR (R280). -/
def lfsrNext (st : Word) : Word :=
  let sh := st >>> 1
  if st.getLsbD 0 then sh ^^^ lfsrMask else sh

/-- `noise_step(N)`: the new unit and the sample (R280). -/
def noiseStep (n : Noise) : Noise × F32 :=
  let st := lfsrNext n.state
  ({ n with state := st }, fmul (fmul (i2f (s32 st)) twoNeg31) n.amp)

/-- `N.amp` clamped to [0, 1] (R281). -/
def noiseSetAmp (n : Noise) (a : F32) : Noise := { n with amp := clampUnit a }

/-- `N.state <- s`, a zero seed replaced by 1 (R282). -/
def noiseSeed (n : Noise) (seed : Word) : Noise :=
  { n with state := if seed = 0#32 then 1#32 else seed }

/-- The two words of `NOISE_READ` (R284). -/
def noiseWords (n : Noise) : List Word := [n.state, n.amp]

/-! ## Commands -/

/-- `NOISE_SET_AMP` (R281). -/
def execNoiseSetAmp (tgt : Byte) (amp : Word) (s : State) : Host.Outcome State Fault Refusal :=
  .next (onNoise s .noiseSetAmp tgt fun n => (noiseSetAmp n amp, []))

/-- `NOISE_SEED` (R282). -/
def execNoiseSeed (tgt : Byte) (seed : Word) (s : State) : Host.Outcome State Fault Refusal :=
  .next (onNoise s .noiseSeed tgt fun n => (noiseSeed n seed, []))

/-- `NOISE_PROCESS` (R283). -/
def execNoiseProcess (tgt : Byte) (s : State) : Host.Outcome State Fault Refusal :=
  .next (onNoise s .noiseProcess tgt fun n => sampleResponse (noiseStep n))

/-- `NOISE_READ` (R284). -/
def execNoiseRead (tgt : Byte) (s : State) : Host.Outcome State Fault Refusal :=
  .next (onNoise s .noiseRead tgt fun n => (n, noiseWords n))

end Sys2Proof.Machine
end

