-- ==== Sys2Proof/Machine/Oscillator.lean ====
section
/-! DEFINITION. The oscillator (40_oscillator.md): its step and its commands. -/

namespace Sys2Proof.Machine

/-! ## Waveforms -/

/-- TRI, `2·|2t − 1| − 1` (R158). -/
def waveTri (t : F32) : F32 := fsub (fmul (fabs (fsub (fmul t fTwo) fOne)) fTwo) fOne

/-- SAW, `1 − 2t` (R159). -/
def waveSaw (t : F32) : F32 := fsub fOne (fmul t fTwo)

/-- SQUARE (R161). -/
def waveSquare (t pwe : F32) : F32 := if flt t pwe then fOne else fNegOne

/-- The PolyBLEP correction `blep(t, dt)` (R165). -/
def blep (t dt : F32) : F32 :=
  if flt t dt then
    let s := fdiv t dt
    fsub (fsub (fadd s s) (fmul s s)) fOne
  else if flt (fsub fOne dt) t then
    let s := fdiv (fsub t fOne) dt
    fadd (fadd (fmul s s) (fadd s s)) fOne
  else fZero

/-- PB_TRI (R162): the corrected square through the leaky integrator. -/
def wavePbTri (acc : Word) (t dt last : F32) : F32 :=
  let sq0 := if flt t fHalf then fOne else fNegOne
  let sq1 := fadd sq0 (blep t dt)
  let sq := fsub sq1 (blep (frac24 (acc + 0x80000000#32)) dt)
  let c := fmin (fmul dt twoPi32) fOne
  fadd (fmul c sq) (fmul (fsub fOne c) last)

/-- PB_SAW (R163). -/
def wavePbSaw (t dt : F32) : F32 := fadd (fsub fOne (fmul t fTwo)) (blep t dt)

/-- PB_SQUARE (R164). -/
def wavePbSquare (t dt pwe : F32) : F32 :=
  let sq := if flt t pwe then fOne else fNegOne
  let u0 := fsub t pwe
  let u := if flt u0 fZero then fadd u0 fOne else u0
  fsub (fadd sq (blep t dt)) (blep u dt)

/-- `WAVE(O, t, dt, pwe)`: the waveform value, and the new `O.last` (R153). Only PB_TRI reads or
writes `O.last`. -/
def wave (o : Osc) (t dt pwe : F32) : F32 × F32 :=
  match o.wave with
  | .sine => (sinlut o.acc, o.last)
  | .tri => (waveTri t, o.last)
  | .saw => (waveSaw t, o.last)
  | .ramp => (t, o.last)
  | .square => (waveSquare t pwe, o.last)
  | .pbTri => (wavePbTri o.acc t dt o.last, wavePbTri o.acc t dt o.last)
  | .pbSaw => (wavePbSaw t dt, o.last)
  | .pbSquare => (wavePbSquare t dt pwe, o.last)

/-! ## The step (R150, R151) -/

/-- `advance(O, d)`: both flags from the old phase, then the phase modulo 2^32 (R151). -/
def advance (o : Osc) (d : Int) : Osc :=
  { o with acc := u32 (o.acc.toNat + d), eoc := eocFlag o.acc d, eor := eorFlag o.acc d }

/-- Hard phase reset (R150, R156). -/
def zeroPhase (o : Osc) : Osc := { o with acc := 0#32 }

/-- `osc_step(O, fm, pwm, rst)`: the new unit and the sample, which is computed before the phase
advances (R150). -/
def oscStep (o : Osc) (fm pwm : F32) (rst : Bool) : Osc × F32 :=
  let o := if rst then zeroPhase o else o
  let pwe := clampf (fadd o.pw pwm) fZero fOne
  let x := wave o (frac24 o.acc) (frac24 o.inc) pwe
  let y := fmul (clampf x.1 fNegOne fOne) o.amp
  (advance { o with last := x.2 } (o.inc.toNat + rad2acc fm), y)

/-- The block form `ProcessBlock(buf, pwBuf, fmBuf, resetVector, reset, n)` (R168): one step per
element `(fm, pwm, resetVector[j])`; the reset vector counts only when `reset` is 1. -/
def oscBlock (reset : Bool) (o : Osc) : List (F32 × F32 × Bool) → Osc × List F32
  | [] => (o, [])
  | (fm, pwm, r) :: rest =>
    let h := oscStep o fm pwm (reset && r)
    let t := oscBlock reset h.1 rest
    (t.1, h.2 :: t.2)

/-! ## Setting operations -/

/-- `O.inc <- inc_of(fr)` (R146). -/
def oscSetFreq (sr : Nat) (o : Osc) (fr : F32) : Osc := { o with inc := incOf sr fr }

/-- `O.wave <- min(w, 7)` (R147). -/
def oscSetWave (o : Osc) (code : Nat) : Osc := { o with wave := waveOfCode code }

/-- `O.amp` clamped to [0, 1] (R148). -/
def oscSetAmp (o : Osc) (a : F32) : Osc := { o with amp := clampUnit a }

/-- `O.pw` clamped to [0, 1] (R149). -/
def oscSetPw (o : Osc) (p : F32) : Osc := { o with pw := clampUnit p }

/-- `O.acc <- (O.acc + rad2acc(Δ)) mod 2^32` (R155). -/
def oscPhaseAdd (o : Osc) (delta : F32) : Osc :=
  { o with acc := u32 (o.acc.toNat + rad2acc delta) }

/-- The six words of `OSC_READ` (R169). -/
def oscWords (o : Osc) : List Word := [o.acc, o.inc, oscFlagWord o, o.amp, o.pw, o.last]

/-! ## Commands -/

/-- `OSC_SET_FREQ` (R146). -/
def execOscSetFreq (tgt osc : Byte) (freq : Word) (s : State) : Host.Outcome State Fault Refusal :=
  .next (onOsc s .oscSetFreq tgt osc fun o => (oscSetFreq s.sampleRate o freq, []))

/-- `OSC_SET_WAVEFORM` (R147). -/
def execOscSetWaveform (tgt osc code : Byte) (s : State) : Host.Outcome State Fault Refusal :=
  .next (onOsc s .oscSetWaveform tgt osc fun o => (oscSetWave o code.toNat, []))

/-- `OSC_SET_AMP` (R148). -/
def execOscSetAmp (tgt osc : Byte) (amp : Word) (s : State) : Host.Outcome State Fault Refusal :=
  .next (onOsc s .oscSetAmp tgt osc fun o => (oscSetAmp o amp, []))

/-- `OSC_SET_PW` (R149). -/
def execOscSetPw (tgt osc : Byte) (pw : Word) (s : State) : Host.Outcome State Fault Refusal :=
  .next (onOsc s .oscSetPw tgt osc fun o => (oscSetPw o pw, []))

/-- `OSC_PHASE_ADD` (R155). -/
def execOscPhaseAdd (tgt osc : Byte) (delta : Word) (s : State) :
    Host.Outcome State Fault Refusal :=
  .next (onOsc s .oscPhaseAdd tgt osc fun o => (oscPhaseAdd o delta, []))

/-- `OSC_RESET` (R156). -/
def execOscReset (tgt osc : Byte) (s : State) : Host.Outcome State Fault Refusal :=
  .next (onOsc s .oscReset tgt osc fun o => (zeroPhase o, []))

/-- `OSC_PROCESS` (R166). -/
def execOscProcess (tgt osc : Byte) (s : State) : Host.Outcome State Fault Refusal :=
  .next (onOsc s .oscProcess tgt osc fun o => sampleResponse (oscStep o fZero fZero false))

/-- `OSC_PROCESS_MOD` (R167). -/
def execOscProcessMod (tgt osc : Byte) (rst : Bool) (fm pwm : Word) (s : State) :
    Host.Outcome State Fault Refusal :=
  .next (onOsc s .oscProcessMod tgt osc fun o => sampleResponse (oscStep o fm pwm rst))

/-- `OSC_READ` (R169). -/
def execOscRead (tgt osc : Byte) (s : State) : Host.Outcome State Fault Refusal :=
  .next (onOsc s .oscRead tgt osc fun o => (o, oscWords o))

end Sys2Proof.Machine
end

