-- ==== Sys2Proof/Machine/Voice.lean ====
section
/-! DEFINITION. One voice (44_voice.md): note-on and note-off, pitch, the per-sample signal path, and
the voice commands. `sr` is `SAMPLE_RATE` and `P` the parameter panel. -/

namespace Sys2Proof.Machine

/-! ## Pitch and lifecycle -/

/-- `osc1_freq(V)` for the voice's note (R303). -/
def osc1Freq (P : Panel) (note : Raw) : F32 :=
  let n2 := min (max ((note.toNat : Int) + coarseSemitones (P.rawOf .detuneCoarse)) 0) 127
  fmul (mtof n2.toNat) (centRatio (P.rawOf .detuneFine).toNat)

/-- `voice_note_on(V, n, vel)` (R301). -/
def voiceNoteOn (sr : Nat) (P : Panel) (v : Voice) (n vel : Raw) : Voice :=
  { v with
    note := n
    vel := vel
    fnote := mtof n.toNat
    osc0 := oscSetFreq sr v.osc0 (mtof n.toNat)
    osc1 := oscSetFreq sr v.osc1 (osc1Freq P n)
    env0 := setGate v.env0 true
    env1 := setGate v.env1 true }

/-- `voice_note_off(V)` (R302): both gates drop. DESIGN CHOICE (log entry 17, unsafe): R315's corner case
says that `VOICE_NOTE_OFF` does nothing to an inactive voice, and its pseudocode has no such condition; they
differ when `env[0]` is IDLE and the gate of `env[1]` is 1. So do R342's pseudocode and its remark that a
`NOTE_OFF` has no effect on a voice already RELEASED. The pseudocode is followed: `env[1]` goes to
RELEASE. -/
def voiceNoteOff (v : Voice) : Voice :=
  { v with env0 := setGate v.env0 false, env1 := setGate v.env1 false }

/-! ## Signal path -/

/-- The filter cutoff of a sample, in Hz (R310): base, key tracking, filter envelope, LFO. -/
def voiceCutoff (P : Panel) (fnote e2 l : F32) : F32 :=
  fadd
    (fadd
      (fadd (P.scaledOf .filterCutoff) (fmul (P.scaledOf .filterTracking) fnote))
      (fmul (fmul (P.scaledOf .filterEnvAmount) fenvRange) e2))
    (fmul (P.scaledOf .lfoCutoffDepth) l)

/-- The oscillators of a voice for one sample, and their combination (R308): the new units and
`oscs`. `osc[1]` is stepped only when OSC2_ENABLE is on, and restarts in the sample in which
`osc[0]` wrapped when SYNC_ENABLE is on. -/
def voiceOscs (P : Panel) (v : Voice) (l : F32) : Osc × Osc × F32 :=
  let fm := fmul l (P.scaledOf .fmDepth)
  let pwm := fmul l (P.scaledOf .lfoPwDepth)
  let r0 := oscStep v.osc0 fm pwm false
  if switchOn (P.rawOf .osc2Enable) then
    let r1 := oscStep v.osc1 fm pwm (switchOn (P.rawOf .syncEnable) && r0.1.eoc)
    (r0.1, r1.1, fmul (fadd r0.2 r1.2) fHalf)
  else (r0.1, v.osc1, r0.2)

/-- `voice_tick(V, ℓ)` (R311); an inactive voice answers +0 and changes nothing (R312). -/
def voiceTick (sr : Nat) (P : Panel) (v : Voice) (l : F32) : Voice × F32 :=
  if active v then
    let e1 := envTick v.env0
    let e2 := envTick v.env1
    let os := voiceOscs P v l
    let nz := noiseStep v.noise
    let mix := P.scaledOf .mix
    let pre := fadd (fmul (fsub fOne mix) os.2.2) (fmul mix nz.2)
    let x := fmul (fmul pre e1.level) (velGain v.vel)
    let fc := voiceCutoff P v.fnote e2.level l
    let v' := { v with env0 := e1, env1 := e2, osc0 := os.1, osc1 := os.2.1, noise := nz.1 }
    if switchOn (P.rawOf .filterType) then
      let r := svfStep v.svf x (coefSvf sr fc).2
      ({ v' with svf := r.1 }, r.2)
    else
      let r := ladderStep v.ladder x (coefLadder sr fc).2
      ({ v' with ladder := r.1 }, r.2)
  else (v, fZero)

/-- The block form of the voice, one tick per LFO value (R316). -/
def voiceBlock (sr : Nat) (P : Panel) (v : Voice) : List F32 → Voice × List F32
  | [] => (v, [])
  | l :: ls =>
    let h := voiceTick sr P v l
    let t := voiceBlock sr P h.1 ls
    (t.1, h.2 :: t.2)

/-! ## Commands -/

/-- `VOICE_NOTE_ON` (R314). -/
def execVoiceNoteOn (tgt note vel : Byte) (s : State) : Host.Outcome State Fault Refusal :=
  .next (onVoice s .voiceNoteOn tgt fun v =>
    (voiceNoteOn s.sampleRate s.panel v (clampRaw note) (clampRaw vel), []))

/-- `VOICE_NOTE_OFF` (R315); on an inactive voice as the pseudocode has it (log entry 17). -/
def execVoiceNoteOff (tgt : Byte) (s : State) : Host.Outcome State Fault Refusal :=
  .next (onVoice s .voiceNoteOff tgt fun v => (voiceNoteOff v, []))

/-- `VOICE_PROCESS` (R313). -/
def execVoiceProcess (tgt : Byte) (s : State) : Host.Outcome State Fault Refusal :=
  .next (onVoice s .voiceProcess tgt fun v =>
    sampleResponse (voiceTick s.sampleRate s.panel v s.lfoLast))

end Sys2Proof.Machine
end

