-- ==== Sys2Proof/Machine/ParameterPanel.lean ====
section
/-! DEFINITION. The parameter panel's commands and its fan-out (46_parameter_panel.md). -/

namespace Sys2Proof.Machine

/-- The per-voice action of `fanout(p)` (R382), from the panel `P` after the write. -/
def fanoutVoice (sr : Nat) (P : Panel) (p : Param) (v : Voice) : Voice :=
  let r := P.rawOf p
  let x := P.scaledOf p
  match p with
  | .oscWaveform =>
    { v with osc0 := oscSetWave v.osc0 (enumCode r), osc1 := oscSetWave v.osc1 (enumCode r) }
  | .pulseWidth => { v with osc0 := oscSetPw v.osc0 x, osc1 := oscSetPw v.osc1 x }
  | .detuneCoarse => { v with osc1 := oscSetFreq sr v.osc1 (osc1Freq P v.note) }
  | .detuneFine => { v with osc1 := oscSetFreq sr v.osc1 (osc1Freq P v.note) }
  | .noiseLevel => { v with noise := noiseSetAmp v.noise x }
  | .filterResonance => { v with ladder := ladderSetRes v.ladder x, svf := svfSetRes v.svf x }
  | .ampAttack => { v with env0 := envSetAttack sr v.env0 x, env1 := envSetAttack sr v.env1 x }
  | .ampDecay => { v with env0 := envSetDecay sr v.env0 x, env1 := envSetDecay sr v.env1 x }
  | .ampSustain => { v with env0 := envSetSustain v.env0 x, env1 := envSetSustain v.env1 x }
  | .ampRelease => { v with env0 := envSetRelease sr v.env0 x, env1 := envSetRelease sr v.env1 x }
  | .fmDepth | .mix | .filterCutoff | .filterEnvAmount | .filterTracking | .lfoWaveform | .lfoRate
  | .fxSlot0 | .fxSlot1 | .fxSlot2 | .fxSlot3 | .lfoPwDepth | .lfoCutoffDepth | .osc2Enable
  | .syncEnable | .filterType | .masterGain => v

/-- The action of `fanout(p)` on the LFO, once (R382). -/
def fanoutLfo (sr : Nat) (P : Panel) (p : Param) (o : Osc) : Osc :=
  match p with
  | .lfoWaveform => oscSetWave o (enumCode (P.rawOf p))
  | .lfoRate => oscSetFreq sr o (P.scaledOf p)
  | .oscWaveform | .pulseWidth | .fmDepth | .detuneCoarse | .detuneFine | .noiseLevel | .mix
  | .filterCutoff | .filterResonance | .filterEnvAmount | .filterTracking | .ampAttack | .ampDecay
  | .ampSustain | .ampRelease | .fxSlot0 | .fxSlot1 | .fxSlot2 | .fxSlot3 | .lfoPwDepth
  | .lfoCutoffDepth | .osc2Enable | .syncEnable | .filterType | .masterGain => o

/-- `SetParam`: write parameter `p` and fan it out to every voice and the LFO (R384, R382). DEDUCED (log
entry 18, unsafe): the fan-out follows every write, as R384's pseudocode has it, also where the raw value
written is the current one. R382 derives that such a write has no observable effect, which fails where a
unit command, or reset's `osc[1].inc = 0`, left the register off its fan-out value. -/
def setParam (s : State) (p : Param) (r : Raw) : State :=
  let P := s.panel.write p r
  { s with
    panel := P
    lfo := fanoutLfo s.sampleRate P p s.lfo
    voices := s.voices.map (fanoutVoice s.sampleRate P p) }

/-! ## Commands -/

/-- `CONTROL_CHANGE` (R384): an ID from 27 on is ignored. -/
def execControlChange (id value : Byte) (s : State) : Host.Outcome State Fault Refusal :=
  match Param.ofId id.toNat with
  | none => .next s
  | some p => .next (setParam s p (clampRaw value))

/-- `READ_PARAM` (R385): the raw value zero-extended and the scaled value. -/
def execReadParam (id : Byte) (s : State) : Host.Outcome State Fault Refusal :=
  match Param.ofId id.toNat with
  | none => .next (s.respond [invalidWord, 0#32])
  | some p => .next (s.respond [(s.panel.rawOf p).setWidth 32, s.panel.scaledOf p])

end Sys2Proof.Machine
end

