-- ==== Sys2Proof/Machine/System.lean ====
section
/-! DEFINITION. The system commands (47_system.md). -/

namespace Sys2Proof.Machine

/-- `NOP` (R420). -/
def execNop (s : State) : Host.Outcome State Fault Refusal := .next s

/-- `RESET` (R421): every field but `CPOS` and the output streams at its reset value; the parameters
(R6) and the words that have arrived are not the core's to change. -/
def execReset (s : State) : Host.Outcome State Fault Refusal :=
  .next { State.resetFor s.config with
    cpos := s.cpos
    audioOut := s.audioOut
    respOut := s.respOut
    stream := s.stream
    partialCmd := s.partialCmd }

/-- `READ_VOICE` (R422). -/
def execReadVoice (tgt : Byte) (s : State) : Host.Outcome State Fault Refusal :=
  .next (onVoice s .readVoice tgt fun v => (v, [voiceStatusWord v]))

end Sys2Proof.Machine
end

