-- ==== Sys2Proof/Machine/VoiceManager.lean ====
section
/-! DEFINITION. The voice manager, the LFO and the master mix (45_voice_manager.md). -/

namespace Sys2Proof.Machine

/-! ## Allocation and release -/

/-- Apply `f` to the first inactive voice in index order; no inactive voice, no change (R341). -/
def onFirstInactive (f : Voice → Voice) : List Voice → List Voice
  | [] => []
  | v :: vs => if active v then v :: onFirstInactive f vs else f v :: vs

/-- `NOTE_OFF` with a note: release every active voice that holds it (R342), a voice already
RELEASED as the pseudocode has it (log entry 17). -/
def releaseNote (n : Raw) (vs : List Voice) : List Voice :=
  vs.map fun v => if active v && v.note == n then voiceNoteOff v else v

/-! ## The sample tick -/

/-- The voices of one sample in index order, with the running sum (R345). -/
def tickVoices (sr : Nat) (P : Panel) (l : F32) : List Voice → F32 → List Voice × F32
  | [], sum => ([], sum)
  | v :: vs, sum =>
    let h := voiceTick sr P v l
    let t := tickVoices sr P l vs (fadd sum h.2)
    (h.1 :: t.1, t.2)

/-- `sample_tick()`: the LFO, then the voices, then the mix (R346). -/
def sampleTick (s : State) : State :=
  let l := oscStep s.lfo fZero fZero false
  let t := tickVoices s.sampleRate s.panel l.2 s.voices fZero
  let y := clampf (fmul t.2 (s.panel.scaledOf .masterGain)) fNegOne fOne
  { s with lfo := l.1, lfoLast := l.2, voices := t.1 }.emitAudio y

/-- `n` sample ticks (R347). -/
def renderSamples : Nat → State → State
  | 0, s => s
  | n + 1, s => renderSamples n (sampleTick s)

/-! ## Commands -/

/-- `NOTE_OFF` (R342); the release velocity is ignored. -/
def execNoteOff (note _vel : Byte) (s : State) : Host.Outcome State Fault Refusal :=
  .next { s with voices := releaseNote (clampRaw note) s.voices }

/-- `NOTE_ON` (R341): velocity 0 is a note-off, else the first inactive voice takes the note. -/
def execNoteOn (note vel : Byte) (s : State) : Host.Outcome State Fault Refusal :=
  if clampRaw vel = 0#7 then .next { s with voices := releaseNote (clampRaw note) s.voices }
  else
    .next { s with
      voices := onFirstInactive
        (fun v => voiceNoteOn s.sampleRate s.panel v (clampRaw note) (clampRaw vel)) s.voices }

/-- `RENDER` (R347). -/
def execRender (count : BitVec 16) (s : State) : Host.Outcome State Fault Refusal :=
  .next (renderSamples count.toNat s)

end Sys2Proof.Machine
end

