-- ==== Sys2Proof/Machine/Dispatch.lean ====
section
/-! DEFINITION. What each command does: one arm per constructor of `Instr`. -/

namespace Sys2Proof.Machine

def exec (i : Instr) (s : State) : Host.Outcome State Fault Refusal :=
  match i with
  | .nop => Sys2Proof.Machine.execNop s
  | .noteOn note vel => Sys2Proof.Machine.execNoteOn note vel s
  | .noteOff note vel => Sys2Proof.Machine.execNoteOff note vel s
  | .controlChange id value => Sys2Proof.Machine.execControlChange id value s
  | .render count => Sys2Proof.Machine.execRender count s
  | .readParam id => Sys2Proof.Machine.execReadParam id s
  | .readVoice tgt => Sys2Proof.Machine.execReadVoice tgt s
  | .reset => Sys2Proof.Machine.execReset s
  | .oscSetFreq tgt osc freq => Sys2Proof.Machine.execOscSetFreq tgt osc freq s
  | .oscSetWaveform tgt osc code => Sys2Proof.Machine.execOscSetWaveform tgt osc code s
  | .oscSetAmp tgt osc amp => Sys2Proof.Machine.execOscSetAmp tgt osc amp s
  | .oscSetPw tgt osc pw => Sys2Proof.Machine.execOscSetPw tgt osc pw s
  | .oscPhaseAdd tgt osc delta => Sys2Proof.Machine.execOscPhaseAdd tgt osc delta s
  | .oscReset tgt osc => Sys2Proof.Machine.execOscReset tgt osc s
  | .oscProcess tgt osc => Sys2Proof.Machine.execOscProcess tgt osc s
  | .oscProcessMod tgt osc rst fm pwm => Sys2Proof.Machine.execOscProcessMod tgt osc rst fm pwm s
  | .oscRead tgt osc => Sys2Proof.Machine.execOscRead tgt osc s
  | .envSetAttack tgt env time => Sys2Proof.Machine.execEnvSetAttack tgt env time s
  | .envSetDecay tgt env time => Sys2Proof.Machine.execEnvSetDecay tgt env time s
  | .envSetSustain tgt env level => Sys2Proof.Machine.execEnvSetSustain tgt env level s
  | .envSetRelease tgt env time => Sys2Proof.Machine.execEnvSetRelease tgt env time s
  | .envSetGate tgt env gate => Sys2Proof.Machine.execEnvSetGate tgt env gate s
  | .envProcess tgt env gate => Sys2Proof.Machine.execEnvProcess tgt env gate s
  | .envRead tgt env => Sys2Proof.Machine.execEnvRead tgt env s
  | .fltSetFreq tgt kind fc => Sys2Proof.Machine.execFltSetFreq tgt kind fc s
  | .fltSetRes tgt kind res => Sys2Proof.Machine.execFltSetRes tgt kind res s
  | .fltProcess tgt kind x => Sys2Proof.Machine.execFltProcess tgt kind x s
  | .fltProcessMod tgt kind x fc => Sys2Proof.Machine.execFltProcessMod tgt kind x fc s
  | .fltRead tgt kind => Sys2Proof.Machine.execFltRead tgt kind s
  | .noiseSetAmp tgt amp => Sys2Proof.Machine.execNoiseSetAmp tgt amp s
  | .noiseSeed tgt seed => Sys2Proof.Machine.execNoiseSeed tgt seed s
  | .noiseProcess tgt => Sys2Proof.Machine.execNoiseProcess tgt s
  | .noiseRead tgt => Sys2Proof.Machine.execNoiseRead tgt s
  | .voiceNoteOn tgt note vel => Sys2Proof.Machine.execVoiceNoteOn tgt note vel s
  | .voiceNoteOff tgt => Sys2Proof.Machine.execVoiceNoteOff tgt s
  | .voiceProcess tgt => Sys2Proof.Machine.execVoiceProcess tgt s

end Sys2Proof.Machine
end

