-- ==== Sys2Proof/Machine/Fetch.lean ====
section
/-! DEFINITION. Taking the next command from the command stream (R111, R112, R424), and how words
arrive from the host (R46, R91, R92). -/

namespace Sys2Proof.Machine

/-- What the command stream holds at its front. -/
inductive Fetched where
  /-- No word is waiting: the core does nothing (R450). -/
  | idle
  /-- Words were consumed, but no command is complete or the opcode is undefined (R423, R424). -/
  | skipped (s : State)
  /-- A whole command was consumed. -/
  | command (i : Instr) (s : State)
deriving DecidableEq, Repr

/-- The words the next command is decoded from: those of an incomplete command already consumed,
then those waiting in the stream (R424). -/
def State.window (s : State) : List Word := s.partialCmd ++ s.stream

/-- Consume the stream down to `rest`: `CPOS` counts the words taken (R31, R112). -/
def State.consumeTo (s : State) (rest : List Word) : State :=
  { s with cpos := s.cpos + (s.stream.length - rest.length), stream := rest, partialCmd := [] }

/-- Consume every waiting word of a command that is not complete (R424). -/
def State.holdPartial (s : State) : State :=
  { s with cpos := s.cpos + s.stream.length, stream := [], partialCmd := s.window }

/-- Take the next command. -/
def fetch (s : State) : Fetched :=
  match decode s.window with
  | .empty => .idle
  | .command i rest => .command i (s.consumeTo rest)
  | .undefinedOpcode _ rest => .skipped (s.consumeTo rest)
  | .incomplete _ _ => .skipped s.holdPartial

/-- Words arrive from the host: an input between commands, not a step (R111). -/
def State.feed (s : State) (ws : List Word) : State := { s with stream := s.stream ++ ws }

/-- Bytes arrive on a little-endian byte channel (R91). `held` are the bytes of a word that is not
complete; they stay on the channel, outside the core, until the rest arrives (R92, log entry 9). -/
def State.feedBytes (s : State) (held bs : List Byte) : State × List Byte :=
  (s.feed (deserialise (held ++ bs)).1, (deserialise (held ++ bs)).2)

/-- A command laid where the next fetch takes it: at the front of the stream, no command pending. -/
def State.placeCommand (s : State) (ws : List Word) : State :=
  { s with stream := ws ++ s.stream, partialCmd := [] }

end Sys2Proof.Machine
end

