-- ==== Sys2Proof/Machine/Step.lean ====
section
/-! DEFINITION. One step: take the next command and perform it to completion (R30, R111). -/

namespace Sys2Proof.Machine

/-- One step. A whole command is performed after its words are consumed; an undefined opcode is a
one-word no-op (R423); an incomplete command is held (R424); an empty stream leaves the core as it is
(R450). -/
def step (s : State) : Host.Outcome State Fault Refusal :=
  match fetch s with
  | .idle => .next s
  | .skipped t => .next t
  | .command i t => exec i t

/-- The state with one command, given as a table word, laid where `step` fetches its next command
(log entry 2). -/
def State.withFetchWord (s : State) (nbits w : Nat) : State := s.placeCommand (tableCommand nbits w)

end Sys2Proof.Machine
end

