-- ==== Sys2Proof/Safety.lean ====
section
/-! DEFINITION. The terms in which claims about the core are stated: exact values, what an instruction's
target selects, several commands in a row, and the invariants of 10_state.md R45. -/

namespace Sys2Proof.Safety

open Sys2Proof.Machine

/-! ## Exact values (R9) -/

/-- `val(x)` of R9 for a finite binary32, as a rational. -/
def val (x : F32) : ℚ := (fint x : ℚ) / 2 ^ 149

/-- `n` is `q` rounded to the nearest integer, ties to even (`rne_int` of R9). -/
def IsRneInt (q : ℚ) (n : ℤ) : Prop := |q - n| ≤ 1 / 2 ∧ (|q - n| = 1 / 2 → Even n)

/-- From this magnitude on, a value rounds to an infinity: 2^128 less half a unit in the last place. -/
def overflowBound : ℚ := 2 ^ 128 - 2 ^ 103

/-- `x` is `q` rounded to the nearest binary32, ties to the even pattern, infinite from
`overflowBound` on (`f32` of R9). The sign of a zero is not said here. -/
def RoundsTo (q : ℚ) (x : F32) : Prop :=
  (|q| < overflowBound →
    finite x = true ∧
      ∀ y, finite y = true →
        |q - val x| ≤ |q - val y| ∧
          (|q - val x| = |q - val y| → val x ≠ val y → x.getLsbD 0 = false)) ∧
  (overflowBound ≤ q → x = 0x7F800000#32) ∧
  (q ≤ -overflowBound → x = 0xFF800000#32)

/-- `x` is a number in `[lo, hi]`, bounds given as patterns. -/
def within (lo hi x : F32) : Bool := fle lo x && fle x hi

/-- `x` is a number in [0, 1]. -/
def inUnit (x : F32) : Bool := within 0x00000000#32 0x3F800000#32 x

/-- `x` is a number in (0, 1]. -/
def inUnitPos (x : F32) : Bool := flt 0x00000000#32 x && fle x 0x3F800000#32

/-- `x` is a number in [−16, 16] (R242). -/
def inFilterRange (x : F32) : Bool := within 0xC1800000#32 0x41800000#32 x

/-! ## What a target selects, and the state with it replaced -/

/-- TGT and A select the oscillator `o` (R117), and `put x` is `s` with that oscillator replaced by
`x` and nothing else changed. -/
def OscAt (s : State) (tgt a : Byte) (o : Osc) (put : Osc → State) : Prop :=
  (∃ v, s.voices[tgt.toNat]? = some v ∧
    ((a = 0#8 ∧ o = v.osc0 ∧
        put = fun x => { s with voices := s.voices.set tgt.toNat { v with osc0 := x } }) ∨
      (a = 1#8 ∧ o = v.osc1 ∧
        put = fun x => { s with voices := s.voices.set tgt.toNat { v with osc1 := x } }))) ∨
  (s.voices[tgt.toNat]? = none ∧ tgt = 0xFF#8 ∧ a = 0#8 ∧ o = s.lfo ∧
    put = fun x => { s with lfo := x })

/-- TGT and A select the envelope `e` (R118), and `put x` is `s` with it replaced by `x`. -/
def EnvAt (s : State) (tgt a : Byte) (e : Env) (put : Env → State) : Prop :=
  ∃ v, s.voices[tgt.toNat]? = some v ∧
    ((a = 0#8 ∧ e = v.env0 ∧
        put = fun x => { s with voices := s.voices.set tgt.toNat { v with env0 := x } }) ∨
      (a = 1#8 ∧ e = v.env1 ∧
        put = fun x => { s with voices := s.voices.set tgt.toNat { v with env1 := x } }))

/-- TGT and A = 0 select the ladder `f` (R119), and `put x` is `s` with it replaced by `x`. -/
def LadderAt (s : State) (tgt a : Byte) (f : Ladder) (put : Ladder → State) : Prop :=
  ∃ v, s.voices[tgt.toNat]? = some v ∧ a = 0#8 ∧ f = v.ladder ∧
    put = fun x => { s with voices := s.voices.set tgt.toNat { v with ladder := x } }

/-- TGT and A = 1 select the state-variable filter `f` (R119), and `put x` is `s` with it replaced. -/
def SvfAt (s : State) (tgt a : Byte) (f : Svf) (put : Svf → State) : Prop :=
  ∃ v, s.voices[tgt.toNat]? = some v ∧ a = 1#8 ∧ f = v.svf ∧
    put = fun x => { s with voices := s.voices.set tgt.toNat { v with svf := x } }

/-- TGT selects the noise unit `n` (R120), and `put x` is `s` with it replaced by `x`. -/
def NoiseAt (s : State) (tgt : Byte) (n : Noise) (put : Noise → State) : Prop :=
  ∃ v, s.voices[tgt.toNat]? = some v ∧ n = v.noise ∧
    put = fun x => { s with voices := s.voices.set tgt.toNat { v with noise := x } }

/-- TGT selects the voice `v` (R120), and `put x` is `s` with it replaced by `x`. -/
def VoiceAt (s : State) (tgt : Byte) (v : Voice) (put : Voice → State) : Prop :=
  s.voices[tgt.toNat]? = some v ∧ put = fun x => { s with voices := s.voices.set tgt.toNat x }

/-- The TGT field of a command that has a target. -/
def targetOf : Instr → Option Byte
  | .nop | .noteOn .. | .noteOff .. | .controlChange .. | .render .. | .readParam .. | .reset => none
  | .readVoice t => some t
  | .oscSetFreq t _ _ | .oscSetWaveform t _ _ | .oscSetAmp t _ _ | .oscSetPw t _ _
  | .oscPhaseAdd t _ _ | .oscReset t _ | .oscProcess t _ | .oscProcessMod t _ _ _ _
  | .oscRead t _ => some t
  | .envSetAttack t _ _ | .envSetDecay t _ _ | .envSetSustain t _ _ | .envSetRelease t _ _
  | .envSetGate t _ _ | .envProcess t _ _ | .envRead t _ => some t
  | .fltSetFreq t _ _ | .fltSetRes t _ _ | .fltProcess t _ _ | .fltProcessMod t _ _ _
  | .fltRead t _ => some t
  | .noiseSetAmp t _ | .noiseSeed t _ | .noiseProcess t | .noiseRead t => some t
  | .voiceNoteOn t _ _ | .voiceNoteOff t | .voiceProcess t => some t

/-- The commands that act on a voice's lifecycle: notes, ticks, the gate of its amplitude envelope,
and RESET (R300). -/
def actsOnLifecycle : Instr → Bool
  | .noteOn .. | .noteOff .. | .render .. | .reset | .envSetGate .. | .envProcess ..
  | .voiceNoteOn .. | .voiceNoteOff .. | .voiceProcess .. => true
  | .nop | .controlChange .. | .readParam .. | .readVoice .. | .oscSetFreq .. | .oscSetWaveform ..
  | .oscSetAmp .. | .oscSetPw .. | .oscPhaseAdd .. | .oscReset .. | .oscProcess ..
  | .oscProcessMod .. | .oscRead .. | .envSetAttack .. | .envSetDecay .. | .envSetSustain ..
  | .envSetRelease .. | .envRead .. | .fltSetFreq .. | .fltSetRes .. | .fltProcess ..
  | .fltProcessMod .. | .fltRead .. | .noiseSetAmp .. | .noiseSeed .. | .noiseProcess ..
  | .noiseRead .. => false

/-! ## The reset values and the scaling formulas, written out -/

/-- The scaling column of R380 and R381 as an exact rational, for a raw value `r`; the bound 0.01 of
FM_DEPTH is read as 1/100 (log entry 19). -/
def scaleFormula (p : Param) (r : ℕ) : ℚ :=
  match p with
  | .oscWaveform | .lfoWaveform => (r / 16 : ℕ)
  | .fmDepth => 1 / 100 * r / 127
  | .detuneCoarse => ((r * 25 / 128 : ℕ) : ℚ) - 12
  | .detuneFine => -50 + 100 * r / 127
  | .filterCutoff => 20 + 19980 * r / 127
  | .filterEnvAmount => -1 + 2 * r / 127
  | .ampAttack | .ampDecay | .ampRelease => 5 * r / 127
  | .lfoRate => 20 * r / 127
  | .lfoPwDepth => 1 / 2 * r / 127
  | .lfoCutoffDepth => 5000 * r / 127
  | .osc2Enable | .syncEnable | .filterType => if 64 ≤ r then 1 else 0
  | .pulseWidth | .noiseLevel | .mix | .filterResonance | .filterTracking | .ampSustain
  | .fxSlot0 | .fxSlot1 | .fxSlot2 | .fxSlot3 | .masterGain => r / 127

/-- The reset raw values of R380 by ID. -/
def resetRawById : List Nat :=
  [0, 64, 0, 64, 64, 0, 0, 127, 0, 64, 0, 0, 0, 127, 0, 0, 0, 0, 0, 0, 0, 0, 0, 0, 0, 0, 127]

/-- Every register but `CPOS` and the output streams has its reset value (R470 items 1 to 8), for the
parameters `c`. -/
def AtReset (c : Config) (s : State) : Prop :=
  s.sampleRate = c.sampleRate ∧ s.voices.length = c.numVoices ∧
  (∀ p : Param, some (s.panel.rawOf p).toNat = resetRawById[(p.id : Nat)]? ∧
    s.panel.scaledOf p = scale p (s.panel.rawOf p)) ∧
  s.lfo = { acc := 0#32, inc := 0#32, wave := .sine, amp := 0x3F800000#32, pw := 0x3F000000#32,
            last := 0#32, eoc := false, eor := false } ∧
  s.lfoLast = 0#32 ∧
  ∀ v < c.numVoices,
    let o : Osc := { acc := 0#32, inc := 0#32, wave := .sine, amp := 0x3F800000#32,
                     pw := 0x3F010204#32, last := 0#32, eoc := false, eor := false }
    let e : Env := { stage := .idle, level := 0#32, gate := false, aInc := 0x3F800000#32,
                     dInc := 0x3F800000#32, rInc := 0x3F800000#32, sus := 0x3F800000#32 }
    let fm : F32 := f32 (9 * c.sampleRate) 20
    s.voices[v]? = some
      { osc0 := o, osc1 := o, env0 := e, env1 := e
        ladder := { s0 := 0#32, s1 := 0#32, s2 := 0#32, s3 := 0#32, fc := (coefLadder c.sampleRate fm).1,
                    g := (coefLadder c.sampleRate fm).2, res := 0#32, k := 0#32 }
        svf := { low := 0#32, band := 0#32, high := 0#32, fc := (coefSvf c.sampleRate fm).1,
                 f := (coefSvf c.sampleRate fm).2, res := 0#32, q := 0x40000000#32 }
        noise := { state := BitVec.ofNat 32 (v + 1), amp := 0#32 }
        note := 0#7, vel := 0#7, fnote := 0#32 }

/-! ## Several commands in a row -/

/-- Perform commands one after the other, stopping at a fault or a refusal. -/
def performAll : List Instr → State → Host.Outcome State Fault Refusal
  | [], s => .next s
  | i :: is, s =>
    match exec i s with
    | .next t => performAll is t
    | .fault r => .fault r
    | .refused r => .refused r

/-- One step, staying where it is if it stops. -/
def stepOn (s : State) : State :=
  match step s with
  | .next t => t
  | .fault _ => s
  | .refused _ => s

/-- `n` steps. -/
def stepsOn : Nat → State → State
  | 0, s => s
  | n + 1, s => stepsOn n (stepOn s)

/-- Run until every word that has arrived is consumed: each step that finds a word waiting consumes
at least one. -/
def drain (s : State) : State := stepsOn (s.stream.length + 1) s

/-! ## Invariants (R45) -/

/-- The parameters are legal (R6). -/
def paramsOk (s : State) : Bool := s.config.legal

/-- R33: every scaled value is the scaling of its raw value. -/
def PanelOk (s : State) : Prop := ∀ p : Param, s.panel.scaledOf p = scale p (s.panel.rawOf p)

/-- R45 for an oscillator: `inc ≤ 2^31`, `amp` and `pw` in [0, 1]. -/
def oscOk (o : Osc) : Bool := decide (o.inc.toNat ≤ 2 ^ 31) && inUnit o.amp && inUnit o.pw

/-- Every oscillator unit is in range. -/
def OscsOk (s : State) : Prop :=
  oscOk s.lfo = true ∧ ∀ v ∈ s.voices, oscOk v.osc0 = true ∧ oscOk v.osc1 = true

/-- The PB_TRI integrator holds a number in [−16, 16]; R34 asks that it be finite. -/
def integratorOk (o : Osc) : Bool := inFilterRange o.last

/-- Every oscillator's integrator is bounded. -/
def IntegratorsOk (s : State) : Prop :=
  integratorOk s.lfo = true ∧ ∀ v ∈ s.voices, integratorOk v.osc0 = true ∧ integratorOk v.osc1 = true

/-- The stage is one that the gate holds: ATTACK, DECAY or SUSTAIN. -/
def gatedStage : Stage → Bool
  | .attack | .decay | .sustain => true
  | .idle | .release => false

/-- R35 and R45 for an envelope: levels in [0, 1], increments in (0, 1], level +0 in IDLE. And, as
R205 and R206 leave it, the gate is 1 exactly in the stages that it holds. -/
def envOk (e : Env) : Bool :=
  inUnit e.level && inUnit e.sus && inUnitPos e.aInc && inUnitPos e.dInc && inUnitPos e.rInc &&
    (e.stage != .idle || e.level == 0x00000000#32) && (e.gate == gatedStage e.stage)

/-- Every envelope is in range. -/
def EnvsOk (s : State) : Prop := ∀ v ∈ s.voices, envOk v.env0 = true ∧ envOk v.env1 = true

/-- R36 and R45 for a ladder: states in [−16, 16], resonance in [0, RES_MAX], and the derived `g` and
`k` those of the stored cutoff and resonance. -/
def ladderOk (sr : Nat) (f : Ladder) : Bool :=
  inFilterRange f.s0 && inFilterRange f.s1 && inFilterRange f.s2 && inFilterRange f.s3 &&
    within 0x00000000#32 0x3F733333#32 f.res && (coefLadder sr f.fc == (f.fc, f.g)) &&
    (ladderGain f.res == f.k)

/-- R37 and R45 for a state-variable filter. -/
def svfOk (sr : Nat) (f : Svf) : Bool :=
  inFilterRange f.low && inFilterRange f.band && inFilterRange f.high &&
    within 0x00000000#32 0x3F733333#32 f.res && (coefSvf sr f.fc == (f.fc, f.f)) &&
    (svfDamping f.res == f.q)

/-- Every filter is in range. -/
def FiltersOk (s : State) : Prop :=
  ∀ v ∈ s.voices, ladderOk s.sampleRate v.ladder = true ∧ svfOk s.sampleRate v.svf = true

/-- R38 and R45 for a noise unit: the LFSR is not 0, the amplitude in [0, 1]. -/
def noiseOk (n : Noise) : Bool := (n.state != 0#32) && inUnit n.amp

/-- Every noise unit is in range. -/
def NoisesOk (s : State) : Prop := ∀ v ∈ s.voices, noiseOk v.noise = true

/-- Every voice's `fnote` is a number, and `LFO_LAST` is one in [−1, 1] (R45, R344). -/
def SignalsOk (s : State) : Prop :=
  within 0xBF800000#32 0x3F800000#32 s.lfoLast = true ∧ ∀ v ∈ s.voices, finite v.fnote = true

/-- The consumed words of an unfinished command are none, or a defined header and fewer payload words
than it asks for (R424). -/
def pendingOk (s : State) : Bool :=
  match s.partialCmd with
  | [] => true
  | h :: ps =>
    match Op.ofByte (opField h) with
    | none => false
    | some op => decide (ps.length < op.pay)

end Sys2Proof.Safety
end

