-- ==== Sys2Proof/Certificates/Slice0/Obligations.lean ====
section
/-! DEFINITION. The statements for the provers, each with the rule of the spec it formalises. -/

open Sys2Proof Sys2Proof.Machine Sys2Proof.Safety

/-! ## Encoding and the command stream -/

/-- The encoding examples of R124: the words written in the spec decode to the commands they are
examples of. -/
def Obligations.SpecEncodingExamplesDecode : Prop :=
  decode [0x0100457F#32] = .command (.noteOn 69#8 127#8) [] ∧
  decode [0x02003C00#32] = .command (.noteOff 60#8 0#8) [] ∧
  decode [0x03000940#32] = .command (.controlChange 9#8 64#8) [] ∧
  decode [0x04000008#32] = .command (.render 8#16) [] ∧
  decode [0x0400BB80#32] = .command (.render 48000#16) [] ∧
  decode [0x05001A00#32] = .command (.readParam 26#8) [] ∧
  decode [0x06030000#32] = .command (.readVoice 3#8) [] ∧
  decode [0x0F000000#32] = .command .reset [] ∧
  decode [0x10000000#32, 0x43DC0000#32] = .command (.oscSetFreq 0#8 0#8 0x43DC0000#32) [] ∧
  decode [0x11010106#32] = .command (.oscSetWaveform 1#8 1#8 6#8) [] ∧
  decode [0x16FF0000#32] = .command (.oscProcess 0xFF#8 0#8) [] ∧
  decode [0x17000001#32, 0x3DCCCCCD#32, 0x00000000#32] =
    .command (.oscProcessMod 0#8 0#8 true 0x3DCCCCCD#32 0x00000000#32) [] ∧
  decode [0x25000101#32] = .command (.envProcess 0#8 1#8 true) [] ∧
  decode [0x33020100#32, 0x3F800000#32, 0x447A0000#32] =
    .command (.fltProcessMod 2#8 1#8 0x3F800000#32 0x447A0000#32) [] ∧
  decode [0x41030000#32, 0xDEADBEEF#32] = .command (.noiseSeed 3#8 0xDEADBEEF#32) [] ∧
  decode [0x5000457F#32] = .command (.voiceNoteOn 0#8 69#8 127#8) []

/-- Decoding and encoding agree (R110, R112, R114): for every command with every operand, and whatever
words follow, decoding its words gives it back and leaves the words that follow. -/
def Obligations.DecodeEncodeRoundTrip : Prop :=
  ∀ (i : Instr) (rest : List Word), decode (encode i ++ rest) = .command i rest

/-- R423: a header whose opcode is in one of the undefined ranges is a one-word no-op: it consumes only
its header word, changes no state and emits nothing. -/
def Obligations.UndefinedOpcodeIsOneWordNop : Prop :=
  ∀ (s : State) (h : Word) (ws : List Word),
    s.partialCmd = [] → s.stream = h :: ws →
    (let op := h.toNat / 2 ^ 24
     (0x07 ≤ op ∧ op ≤ 0x0E) ∨ (0x19 ≤ op ∧ op ≤ 0x1F) ∨ (0x27 ≤ op ∧ op ≤ 0x2F) ∨
     (0x35 ≤ op ∧ op ≤ 0x3F) ∨ (0x44 ≤ op ∧ op ≤ 0x4F) ∨ (0x53 ≤ op ∧ op ≤ 0xFF)) →
    step s = .next { s with cpos := s.cpos + 1, stream := ws }

/-- A step runs the decoded command (R30, R31, R111, R112): when the words waiting decode to a command,
the step is that command's meaning on the state with its words consumed, `CPOS` counting them. The second
clause is R424 as the model reads it (log entry 3): the words held of an unfinished command are decoded
with those waiting, and `CPOS`, which counted the held words before, counts those now taken. -/
def Obligations.StepRunsDecodedCommand : Prop :=
  (∀ (s : State) (i : Instr) (rest : List Word),
    s.partialCmd = [] → decode s.stream = .command i rest →
    step s = exec i { s with cpos := s.cpos + (1 + i.op.pay), stream := rest }) ∧
  (∀ (s : State) (i : Instr) (rest : List Word),
    decode (s.partialCmd ++ s.stream) = .command i rest →
    step s = exec i { s with
      cpos := s.cpos + (s.stream.length - rest.length), stream := rest, partialCmd := [] })

/-- R424: a command whose payload has not all arrived is not performed and nothing of it takes effect,
while `CPOS` counts the words consumed; when the missing words arrive, it is performed, and the state is
the one it would have found had its words arrived together. That the words consumed are held in
`partialCmd`, counted when they are taken and not again on completion, is how the model reads R424 (log
entry 3). -/
def Obligations.IncompleteCommandWaits : Prop :=
  ∀ (s : State) (h : Word) (ps : List Word) (op : Op),
    s.partialCmd ++ s.stream = h :: ps → Op.ofByte (opField h) = some op → ps.length < op.pay →
    step s = .next { s with
      cpos := s.cpos + s.stream.length, stream := [], partialCmd := h :: ps } ∧
    ∀ ws : List Word, op.pay ≤ ps.length + ws.length →
      ∃ i : Instr, i.op = op ∧
        decode (h :: (ps ++ ws)) = .command i (ws.drop (op.pay - ps.length)) ∧
        step { s with cpos := s.cpos + s.stream.length, stream := ws, partialCmd := h :: ps } =
          exec i { s with
            cpos := s.cpos + s.stream.length + (op.pay - ps.length)
            stream := ws.drop (op.pay - ps.length)
            partialCmd := [] }

/-- R111: the core's outputs, and all its state, depend only on the concatenated sequence of words, not
on how the words are grouped in time; the words held of an unfinished command are part of that state by
the model's reading of R424 (log entry 3). -/
def Obligations.GroupingOfWordsIsInvisible : Prop :=
  ∀ (s : State) (ws : List Word), pendingOk s = true →
    drain ((drain s).feed ws) = drain (s.feed ws)

/-- R91 and R92: a byte channel carries each word as four bytes, bits 7:0 first; words so carried arrive
as they were sent, the bytes of a word that is not whole being held; and how the bytes are grouped makes
no difference. That the held bytes are the channel's and not the core's is the model's choice (log
entry 9). -/
def Obligations.ByteChannelCarriesWords : Prop :=
  (∀ ws : List Word, serialise ws = ws.flatMap fun w =>
    [BitVec.ofNat 8 (w.toNat % 256), BitVec.ofNat 8 (w.toNat / 2 ^ 8 % 256),
      BitVec.ofNat 8 (w.toNat / 2 ^ 16 % 256), BitVec.ofNat 8 (w.toNat / 2 ^ 24)]) ∧
  (∀ (ws : List Word) (bs : List Byte), bs.length < 4 → deserialise (serialise ws ++ bs) = (ws, bs)) ∧
  ∀ (s : State) (held xs ys : List Byte),
    (s.feedBytes held xs).1.feedBytes (s.feedBytes held xs).2 ys = s.feedBytes held (xs ++ ys)

/-- R440: no command, and no step, ends in a fault or an error, for any operand value and in any
state. -/
def Obligations.NoCommandFaults : Prop :=
  (∀ (i : Instr) (s : State), ∃ t, exec i s = .next t) ∧ ∀ s : State, ∃ t, step s = .next t

/-- R31, R112 and R113: a step takes words from the front of the stream and adds their number to
`CPOS`, at least one where one is waiting; a command's own effect touches neither. With no word waiting
a step changes nothing, all state being kept (the model's reading of R450 as a step, log entry 4). -/
def Obligations.CommandPositionOnlyAdvances : Prop :=
  (∀ s t : State, pendingOk s = true → step s = .next t →
    ∃ n, n ≤ s.stream.length ∧ (s.stream ≠ [] → 0 < n) ∧
      t.cpos = s.cpos + n ∧ t.stream = s.stream.drop n) ∧
  (∀ (i : Instr) (s t : State), exec i s = .next t →
    t.cpos = s.cpos ∧ t.stream = s.stream ∧ t.partialCmd = s.partialCmd) ∧
  ∀ s : State, pendingOk s = true → s.stream = [] → step s = .next s

/-- R116: each command appends exactly the number of response words of its opcode, for every operand
value; `RENDER` appends exactly `N` samples and nothing to the responses; no other command writes
`AUDIO_OUT`. -/
def Obligations.ResponseCountsAreFixed : Prop :=
  ∀ (i : Instr) (s t : State), exec i s = .next t →
    (∃ ws, t.respOut = s.respOut ++ ws ∧ ws.length = i.op.resp) ∧
    (∃ ys, t.audioOut = s.audioOut ++ ys ∧
      ys.length = match i with
        | .render n => n.toNat
        | _ => 0)

/-- R121: a command whose target is invalid changes no state, consumes its full length and emits its
documented number of response words, each 0xFFFFFFFF; `READ_PARAM` with A ≥ 27 emits
0xFFFFFFFF, 0x00000000. -/
def Obligations.InvalidTargetChangesNothing : Prop :=
  (∀ (i : Instr) (s : State), i.targetValid s.nv = false →
    exec i s = .next { s with respOut := s.respOut ++ List.replicate i.op.resp 0xFFFFFFFF#32 }) ∧
  (∀ (i : Instr) (s : State) (rest : List Word),
    s.partialCmd = [] → decode s.stream = .command i rest → i.targetValid s.nv = false →
    step s = .next { s with
      cpos := s.cpos + (1 + i.op.pay)
      stream := rest
      respOut := s.respOut ++ List.replicate i.op.resp 0xFFFFFFFF#32 }) ∧
  ∀ (id : Byte) (s : State), 27 ≤ id.toNat →
    exec (.readParam id) s =
      .next { s with respOut := s.respOut ++ [0xFFFFFFFF#32, 0x00000000#32] }

/-- A command that addresses one voice or one of its units (R117 to R120) leaves every other voice, the
panel, `LFO_LAST`, `AUDIO_OUT` and the parameters as they are, and the LFO too unless TGT is 0xFF. -/
def Obligations.TargetedCommandsLeaveTheRestAlone : Prop :=
  ∀ (i : Instr) (tgt : Byte) (s t : State), targetOf i = some tgt → exec i s = .next t →
    t.panel = s.panel ∧ t.lfoLast = s.lfoLast ∧ t.audioOut = s.audioOut ∧
    t.sampleRate = s.sampleRate ∧ t.voices.length = s.voices.length ∧
    (tgt ≠ 0xFF#8 → t.lfo = s.lfo) ∧
    ∀ v, v ≠ tgt.toNat → t.voices[v]? = s.voices[v]?

/-! ## Reset -/

/-- R470 and R421: power-on and `RESET` put every field in its reset value. Power-on also sets `CPOS`
to 0 and empties both output streams; `RESET` leaves those three, the parameters and the words that
have arrived. -/
def Obligations.ResetGivesResetValues : Prop :=
  (∀ c : Config, AtReset c (State.resetFor c) ∧ (State.resetFor c).cpos = 0 ∧
    (State.resetFor c).audioOut = [] ∧ (State.resetFor c).respOut = []) ∧
  ∀ s : State, ∃ t, exec .reset s = .next t ∧ AtReset s.config t ∧ t.cpos = s.cpos ∧
    t.audioOut = s.audioOut ∧ t.respOut = s.respOut ∧ t.stream = s.stream ∧
    t.partialCmd = s.partialCmd

/-- After reset every voice is inactive and `RENDER` emits +0 samples (R470). -/
def Obligations.SilenceAfterReset : Prop :=
  ∀ (c : Config) (n : BitVec 16),
    (∀ v ∈ (State.resetFor c).voices, vstate v = .inactive) ∧
    ∃ t, exec (.render n) (State.resetFor c) = .next t ∧
      t.audioOut = List.replicate n.toNat 0x00000000#32

/-! ## binary32 arithmetic (R9) -/

/-- `f32` rounds every exact rational to the nearest binary32, ties to even, 0 to +0, and overflows to
infinity; `rne_int` rounds to the nearest integer, ties to even (R9). -/
def Obligations.RoundingIsNearestEven : Prop :=
  (∀ (n : ℤ) (d : ℕ), 0 < d → RoundsTo (n / d) (f32 n d) ∧ (n = 0 → f32 n d = 0x00000000#32)) ∧
  ∀ (a : ℤ) (b : ℕ), 0 < b → IsRneInt (a / b) (rneInt a b)

/-- `fadd`, `fsub`, `fmul` and `fdiv` of finite values are the exact result rounded once; a zero sum is
+0 unless both operands are −0; a product's or quotient's sign is the exclusive-or of the signs; any
NaN operand, and ∞ − ∞, 0 × ∞ and 0 / 0, give the canonical NaN (R9). -/
def Obligations.ArithmeticRoundsTheExactResultOnce : Prop :=
  (∀ x y : F32, finite x = true → finite y = true →
    RoundsTo (val x + val y) (fadd x y) ∧
    RoundsTo (val x - val y) (fsub x y) ∧
    RoundsTo (val x * val y) (fmul x y) ∧
    (val y ≠ 0 → RoundsTo (val x / val y) (fdiv x y)) ∧
    (val x + val y = 0 →
      fadd x y = if x = 0x80000000#32 ∧ y = 0x80000000#32 then 0x80000000#32 else 0x00000000#32) ∧
    (fmul x y).getLsbD 31 = (x.getLsbD 31 ^^ y.getLsbD 31) ∧
    (val y ≠ 0 → (fdiv x y).getLsbD 31 = (x.getLsbD 31 ^^ y.getLsbD 31)) ∧
    (val x = 0 → val y = 0 → fdiv x y = 0x7FC00000#32) ∧
    (val x = 0 → ∀ z, isInf z = true →
      fmul x z = 0x7FC00000#32 ∧ fmul z x = 0x7FC00000#32)) ∧
  (∀ x y : F32, isNaN x = true ∨ isNaN y = true →
    fadd x y = 0x7FC00000#32 ∧ fsub x y = 0x7FC00000#32 ∧ fmul x y = 0x7FC00000#32 ∧
    fdiv x y = 0x7FC00000#32) ∧
  fsub 0x7F800000#32 0x7F800000#32 = 0x7FC00000#32 ∧
  fadd 0x7F800000#32 0xFF800000#32 = 0x7FC00000#32

/-- `flt` and `fle` compare values, both zeros alike, and are false on a NaN (R9). -/
def Obligations.ComparisonsOrderValues : Prop :=
  (∀ x y : F32, finite x = true → finite y = true →
    (flt x y = true ↔ val x < val y) ∧ (fle x y = true ↔ val x ≤ val y)) ∧
  ∀ x y : F32, isNaN x = true ∨ isNaN y = true → flt x y = false ∧ fle x y = false

/-- `clampf` (R9): its result is in the range, a NaN gives the lower bound, a value inside the range is
returned as it is (a −0 as −0), and a value outside gives the bound on its side. -/
def Obligations.ClampHoldsItsRange : Prop :=
  ∀ x lo hi : F32, fle lo hi = true →
    within lo hi (clampf x lo hi) = true ∧
    (isNaN x = true → clampf x lo hi = lo) ∧
    (within lo hi x = true → clampf x lo hi = x) ∧
    (flt x lo = true → clampf x lo hi = lo) ∧
    (flt hi x = true → clampf x lo hi = hi)

/-! ## Oscillator -/

/-- R145 and R146, `OSC_SET_FREQ`: the stored increment is `fc·2^32/sr` rounded to the nearest integer,
with the frequency clamped to [0, sr/2]; a NaN or a negative frequency gives 0 and one above `sr/2`
gives 2^31; nothing else changes, the phase included. -/
def Obligations.OscSetFreqStoresIncrement : Prop :=
  ∀ (s : State) (tgt a : Byte) (o : Osc) (put : Osc → State) (fr : Word),
    paramsOk s = true → OscAt s tgt a o put →
    ∃ w : Word, exec (.oscSetFreq tgt a fr) s = .next (put { o with inc := w }) ∧
      IsRneInt (val (clampf fr 0x00000000#32 (f32 s.sampleRate 2)) * 2 ^ 32 / s.sampleRate) w.toNat ∧
      w.toNat ≤ 2 ^ 31 ∧
      (isNaN fr = true ∨ flt fr 0x00000000#32 = true → w = 0#32) ∧
      (flt (f32 s.sampleRate 2) fr = true → w = 0x80000000#32) ∧
      (s.sampleRate = 48000 → fr = 0x43DC0000#32 → w = 0x0258BF26#32)

/-- R147, R148 and R149, `OSC_SET_WAVEFORM`, `OSC_SET_AMP` and `OSC_SET_PW`: the code is clamped to 7,
amplitude and pulse width to [0, 1], and nothing else changes. -/
def Obligations.OscSettersClamp : Prop :=
  ∀ (s : State) (tgt a : Byte) (o : Osc) (put : Osc → State), OscAt s tgt a o put →
    (∀ code : Byte, ∃ w : Waveform, w.code.toNat = min code.toNat 7 ∧
      exec (.oscSetWaveform tgt a code) s = .next (put { o with wave := w })) ∧
    (∀ x : Word, exec (.oscSetAmp tgt a x) s =
      .next (put { o with amp := clampf x 0x00000000#32 0x3F800000#32 })) ∧
    (∀ x : Word, exec (.oscSetPw tgt a x) s =
      .next (put { o with pw := clampf x 0x00000000#32 0x3F800000#32 }))

/-- R142, R155 and R156, `OSC_PHASE_ADD` and `OSC_RESET`: the phase moves by the radians converted to
accumulator units, modulo 2^32, a non-finite value adding 0; a reset zeroes it; the flags and every
other field are unchanged. -/
def Obligations.OscPhaseCommands : Prop :=
  ∀ (s : State) (tgt a : Byte) (o : Osc) (put : Osc → State), OscAt s tgt a o put →
    (∀ delta : Word, ∃ d : ℤ,
      (finite delta = true → IsRneInt (val delta * 683565248) d) ∧
      (finite delta = false → d = 0) ∧
      exec (.oscPhaseAdd tgt a delta) s =
        .next (put { o with acc := BitVec.ofInt 32 (o.acc.toNat + d) })) ∧
    exec (.oscReset tgt a) s = .next (put { o with acc := 0#32 })

/-- R166 and R167, `OSC_PROCESS` and `OSC_PROCESS_MOD`: one oscillator step on the target, its sample
the one response word, nothing else changed; on an invalid target one word 0xFFFFFFFF. -/
def Obligations.OscProcessAnswersOneStep : Prop :=
  (∀ (s : State) (tgt a : Byte) (o : Osc) (put : Osc → State), OscAt s tgt a o put →
    (exec (.oscProcess tgt a) s = .next { put (oscStep o 0#32 0#32 false).1 with
      respOut := s.respOut ++ [(oscStep o 0#32 0#32 false).2] }) ∧
    ∀ (rst : Bool) (fm pwm : Word),
      exec (.oscProcessMod tgt a rst fm pwm) s = .next { put (oscStep o fm pwm rst).1 with
        respOut := s.respOut ++ [(oscStep o fm pwm rst).2] }) ∧
  ∀ (s : State) (tgt a : Byte), oscTargetValid s.nv tgt a = false →
    exec (.oscProcess tgt a) s = .next { s with respOut := s.respOut ++ [0xFFFFFFFF#32] }

/-- R150, R151 and R152: a step's sample is the waveform at the phase before the advance, clamped and
scaled by the amplitude; the phase moves by `inc + rad2acc(fm)` modulo 2^32; `eoc` and `eor` say whether
it passed the end of the cycle and rose through its half; the settings stay, and `last` changes only
under PB_TRI (R153). -/
def Obligations.OscStepAdvancesPhaseAndFlags : Prop :=
  ∀ (o : Osc) (fm pwm : F32) (rst : Bool),
    let p : Word := if rst then 0#32 else o.acc
    let d : ℤ := o.inc.toNat + rad2acc fm
    let r := oscStep o fm pwm rst
    let x := wave { o with acc := p } (frac24 p) (frac24 o.inc)
      (clampf (fadd o.pw pwm) 0x00000000#32 0x3F800000#32)
    r.2 = fmul (clampf x.1 0xBF800000#32 0x3F800000#32) o.amp ∧
    (r.1.acc.toNat : ℤ) = (p.toNat + d) % 2 ^ 32 ∧
    (r.1.eoc = true ↔ 2 ^ 32 ≤ p.toNat + d) ∧
    (r.1.eor = true ↔ p.toNat < 2 ^ 31 ∧ 2 ^ 31 ≤ p.toNat + d) ∧
    r.1.inc = o.inc ∧ r.1.wave = o.wave ∧ r.1.amp = o.amp ∧ r.1.pw = o.pw ∧ r.1.last = x.2 ∧
    (o.wave ≠ .pbTri → r.1.last = o.last)

/-- R154: every step's sample is in [−amp, +amp], for every waveform, phase, increment and
modulation. -/
def Obligations.OscOutputIsBoundedByAmp : Prop :=
  ∀ (o : Osc) (fm pwm : F32) (rst : Bool), inUnit o.amp = true →
    fle (fabs (oscStep o fm pwm rst).2) o.amp = true

/-- R153, R157 to R164: every waveform and the new `O.last`, operation by operation: SINE is the table
lookup of the whole phase; PB_TRI the corrected square through the integrator, which alone reads and
writes `O.last`; PB_SAW and PB_SQUARE the naive wave with its edges corrected. And R141, R158 to R161: the
fractional phase is `floor(acc/256)/2^24` and the naive waveforms are exact: TRI is `2|2t − 1| − 1`, SAW
`1 − 2t`, RAMP `t`, and SQUARE is 1 below the pulse width and −1 from it on. -/
def Obligations.NaiveWaveformsAreExact : Prop :=
  (∀ (o : Osc) (t dt pwe : F32),
    let square : F32 → F32 := fun edge => if flt t edge then 0x3F800000#32 else 0xBF800000#32
    let sq := fsub (fadd (square 0x3F000000#32) (blep t dt)) (blep (frac24 (o.acc + 0x80000000#32)) dt)
    let c := fmin (fmul dt 0x40C90FDB#32) 0x3F800000#32
    let y := fadd (fmul c sq) (fmul (fsub 0x3F800000#32 c) o.last)
    let u0 := fsub t pwe
    let u := if flt u0 0x00000000#32 then fadd u0 0x3F800000#32 else u0
    wave o t dt pwe = match o.wave with
      | .sine => (sinlut o.acc, o.last)
      | .tri => (fsub (fmul (fabs (fsub (fmul t 0x40000000#32) 0x3F800000#32)) 0x40000000#32)
          0x3F800000#32, o.last)
      | .saw => (fsub 0x3F800000#32 (fmul t 0x40000000#32), o.last)
      | .ramp => (t, o.last)
      | .square => (square pwe, o.last)
      | .pbTri => (y, y)
      | .pbSaw => (fadd (fsub 0x3F800000#32 (fmul t 0x40000000#32)) (blep t dt), o.last)
      | .pbSquare => (fsub (fadd (square pwe) (blep t dt)) (blep u dt), o.last)) ∧
  ∀ (o : Osc) (dt pwe : F32), finite pwe = true →
    let t : ℚ := ((o.acc.toNat / 256 : ℕ) : ℚ) / 2 ^ 24
    let x := (wave o (frac24 o.acc) dt pwe).1
    finite (frac24 o.acc) = true ∧ val (frac24 o.acc) = t ∧
    (o.wave = .tri → finite x = true ∧ val x = 2 * |2 * t - 1| - 1) ∧
    (o.wave = .saw → finite x = true ∧ val x = 1 - 2 * t) ∧
    (o.wave = .ramp → finite x = true ∧ val x = t) ∧
    (o.wave = .square → x = if t < val pwe then 0x3F800000#32 else 0xBF800000#32)

/-- R165: the PolyBLEP correction, operation by operation, on each side of the edge. At every position `t`
in [0, 1] and every legal increment it is at most 1 in magnitude, and it is +0 for an increment below 256
(near DC), where no division happens. R164's position relative to the falling edge, which may round to 1,
is such a `t`. -/
def Obligations.BlepCorrectionIsBounded : Prop :=
  (∀ t dt : F32, blep t dt =
    if flt t dt then
      let s := fdiv t dt
      fsub (fsub (fadd s s) (fmul s s)) 0x3F800000#32
    else if flt (fsub 0x3F800000#32 dt) t then
      let s := fdiv (fsub t 0x3F800000#32) dt
      fadd (fadd (fmul s s) (fadd s s)) 0x3F800000#32
    else 0x00000000#32) ∧
  (∀ (t : F32) (inc : Word), inUnit t = true → inc.toNat ≤ 2 ^ 31 →
    within 0xBF800000#32 0x3F800000#32 (blep t (frac24 inc)) = true ∧
    (inc.toNat < 256 → blep t (frac24 inc) = 0x00000000#32)) ∧
  ∀ (acc : Word) (pwe : F32), inUnit pwe = true →
    let u0 := fsub (frac24 acc) pwe
    inUnit (frac24 acc) = true ∧
    inUnit (if flt u0 0x00000000#32 then fadd u0 0x3F800000#32 else u0) = true

/-- R143 and R144: the sine lookup interpolates between two neighbouring table entries, the weight being
the phase's low 22 bits as a fraction; at a table point it is the table's entry, the table has the sine's
symmetries, and every lookup is in [−1, 1]. -/
def Obligations.SineLookupStaysInRange : Prop :=
  (∀ acc : Word,
    let i := acc.toNat / 2 ^ 22
    let fr := fmul (f32 (acc.toNat % 2 ^ 22 : ℕ) 1) 0x34800000#32
    let l0 := sineEntry i
    let l1 := sineEntry ((i + 1) % 1024)
    val fr = ((acc.toNat % 2 ^ 22 : ℕ) : ℚ) / 2 ^ 22 ∧
    sinlut acc = fadd l0 (fmul fr (fsub l1 l0))) ∧
  (∀ i < 1024, sinlut (BitVec.ofNat 32 (i * 2 ^ 22)) = sineEntry i) ∧
  (∀ i ≤ 512, sineEntry (512 - i) = sineEntry i) ∧
  (∀ i, 0 < i → i < 512 → sineEntry (512 + i) = fneg (sineEntry i)) ∧
  ∀ acc : Word, within 0xBF800000#32 0x3F800000#32 (sinlut acc) = true

/-! ## Envelope -/

/-- R201 to R204 and R208, the envelope's setters: a time is clamped to [0, 60] seconds and stored as
its increment per sample, 1.0 for a segment of at most one sample; the sustain level is clamped to
[0, 1]; stage, level and gate are unchanged. -/
def Obligations.EnvSettersStoreIncrements : Prop :=
  ∀ (s : State) (tgt a : Byte) (e : Env) (put : Env → State) (x : Word), EnvAt s tgt a e put →
    let p := fmul (clampf x 0x00000000#32 0x42700000#32) (f32 s.sampleRate 1)
    let inc := if fle p 0x3F800000#32 then 0x3F800000#32 else fdiv 0x3F800000#32 p
    exec (.envSetAttack tgt a x) s = .next (put { e with aInc := inc }) ∧
    exec (.envSetDecay tgt a x) s = .next (put { e with dInc := inc }) ∧
    exec (.envSetRelease tgt a x) s = .next (put { e with rInc := inc }) ∧
    exec (.envSetSustain tgt a x) s =
      .next (put { e with sus := clampf x 0x00000000#32 0x3F800000#32 })

/-- R205 and R209, `ENV_SET_GATE`: a rising gate starts the attack from any stage, a falling gate the
release from any stage but IDLE, an unchanged gate does nothing, and the level stays. -/
def Obligations.EnvGateActsOnEdges : Prop :=
  ∀ (s : State) (tgt a : Byte) (e : Env) (put : Env → State) (g : Bool), EnvAt s tgt a e put →
    exec (.envSetGate tgt a g) s = .next (put { e with
      gate := g
      stage := if g = true ∧ e.gate = false then .attack
        else if g = false ∧ e.gate = true ∧ e.stage ≠ .idle then .release
        else e.stage })

/-- R206 and R210, `ENV_PROCESS`: the gate edge, then one tick of the stage it leaves, answering the
new level; on an invalid target one word 0xFFFFFFFF. -/
def Obligations.EnvProcessTicksOnce : Prop :=
  (∀ (s : State) (tgt a : Byte) (e : Env) (put : Env → State) (g : Bool), EnvAt s tgt a e put →
    let st : Stage := if g = true ∧ e.gate = false then .attack
      else if g = false ∧ e.gate = true ∧ e.stage ≠ .idle then .release
      else e.stage
    let up := fadd e.level e.aInc
    let dn := fsub e.level e.dInc
    let rl := fsub e.level e.rInc
    ∃ (st' : Stage) (l : F32),
      exec (.envProcess tgt a g) s = .next { put { e with gate := g, stage := st', level := l } with
        respOut := s.respOut ++ [l] } ∧
      (st = .idle → st' = .idle ∧ l = 0x00000000#32) ∧
      (st = .attack → if fle 0x3F800000#32 up then st' = .decay ∧ l = 0x3F800000#32
        else st' = .attack ∧ l = up) ∧
      (st = .decay → if fle dn e.sus then st' = .sustain ∧ l = e.sus else st' = .decay ∧ l = dn) ∧
      (st = .sustain → st' = .sustain ∧ l = e.sus) ∧
      (st = .release → if fle rl 0x00000000#32 then st' = .idle ∧ l = 0x00000000#32
        else st' = .release ∧ l = rl)) ∧
  ∀ (s : State) (tgt a : Byte) (g : Bool), unitTargetValid s.nv tgt a = false →
    exec (.envProcess tgt a g) s = .next { s with respOut := s.respOut ++ [0xFFFFFFFF#32] }

/-! ## Filters -/

/-- R241, R244, R245, R251 and R252, `FLT_SET_FREQ` and `FLT_SET_RES`: the cutoff is clamped to
[0, FC_MAX] and stored with its coefficient, the resonance to [0, RES_MAX] and stored with its feedback
gain or damping; the filter states are unchanged. That the ladder's coefficient is `w/(1+w)` at every rate
and cutoff, FC_MAX included, follows R241's pseudocode against its remark that the coefficient at FC_MAX
is 0x3F3D1D4D at every sample rate; that is the model's choice (log entry 16). -/
def Obligations.FltSettersStoreCoefficients : Prop :=
  ∀ (s : State) (tgt a : Byte) (x : Word), paramsOk s = true →
    let fcc := clampf x 0x00000000#32 (f32 (9 * s.sampleRate) 20)
    let w := fdiv (fmul fcc 0x40C90FDB#32) (f32 s.sampleRate 1)
    let r := clampf x 0x00000000#32 0x3F733333#32
    (∀ (f : Ladder) (put : Ladder → State), LadderAt s tgt a f put →
      exec (.fltSetFreq tgt a x) s =
        .next (put { f with fc := fcc, g := fdiv w (fadd 0x3F800000#32 w) }) ∧
      exec (.fltSetRes tgt a x) s = .next (put { f with res := r, k := fmul 0x40800000#32 r })) ∧
    ∀ (f : Svf) (put : Svf → State), SvfAt s tgt a f put →
      (∃ p : Word, IsRneInt (val fcc * 2 ^ 31 / s.sampleRate) p.toNat ∧
        exec (.fltSetFreq tgt a x) s = .next (put { f with
          fc := fcc, f := fmin (fmul 0x40000000#32 (sinlut p)) 0x3F4CCCCD#32 })) ∧
      exec (.fltSetRes tgt a x) s =
        .next (put { f with res := r, q := fmul 0x40000000#32 (fsub 0x3F800000#32 r) })

/-- R242, R243, R246, R247 and R253, `FLT_PROCESS` and `FLT_PROCESS_MOD`: the limited input through one
step of the filter, with the stored coefficient or with that of the sample's own cutoff, which is not
stored; the output is the response; on an invalid target one word 0xFFFFFFFF. -/
def Obligations.FltProcessRunsOneStep : Prop :=
  (∀ (s : State) (tgt a : Byte) (x fc : Word),
    let lm : F32 → F32 := fun y => clampf y 0xC1800000#32 0x41800000#32
    (∀ (f : Ladder) (put : Ladder → State), LadderAt s tgt a f put →
      let out : F32 → State := fun g =>
        let u := fsub (lm x) (fmul f.k f.s3)
        let s0 := lm (fadd f.s0 (fmul g (fsub u f.s0)))
        let s1 := lm (fadd f.s1 (fmul g (fsub s0 f.s1)))
        let s2 := lm (fadd f.s2 (fmul g (fsub s1 f.s2)))
        let s3 := lm (fadd f.s3 (fmul g (fsub s2 f.s3)))
        { put { f with s0 := s0, s1 := s1, s2 := s2, s3 := s3 } with respOut := s.respOut ++ [s3] }
      exec (.fltProcess tgt a x) s = .next (out f.g) ∧
      exec (.fltProcessMod tgt a x fc) s = .next (out (coefLadder s.sampleRate fc).2)) ∧
    ∀ (f : Svf) (put : Svf → State), SvfAt s tgt a f put →
      let out : F32 → State := fun c =>
        let low := lm (fadd f.low (fmul c f.band))
        let high := lm (fsub (fsub (lm x) low) (fmul f.q f.band))
        let band := lm (fadd (fmul c high) f.band)
        { put { f with low := low, high := high, band := band } with
          respOut := s.respOut ++ [low] }
      exec (.fltProcess tgt a x) s = .next (out f.f) ∧
      exec (.fltProcessMod tgt a x fc) s = .next (out (coefSvf s.sampleRate fc).2)) ∧
  ∀ (s : State) (tgt a : Byte) (x : Word), unitTargetValid s.nv tgt a = false →
    exec (.fltProcess tgt a x) s = .next { s with respOut := s.respOut ++ [0xFFFFFFFF#32] }

/-- R35 to R37, R201, R241, R251 and R252: for every request, of any bit pattern, an envelope increment
is in (0, 1], the ladder coefficient in [0, 1), the SVF coefficient in [0, SVF_F_MAX], the feedback gain
in [0, 0x40733333] and the damping in [0x3DCCCCD0, 2.0]. -/
def Obligations.CoefficientsStayInRange : Prop :=
  ∀ (sr : ℕ) (x : F32), 8000 ≤ sr → sr ≤ 192000 →
    inUnitPos (tinc sr x) = true ∧
    fle 0x00000000#32 (coefLadder sr x).2 = true ∧ flt (coefLadder sr x).2 0x3F800000#32 = true ∧
    within 0x00000000#32 0x3F4CCCCD#32 (coefSvf sr x).2 = true ∧
    within 0x00000000#32 0x40733333#32 (ladderGain (clampRes x)) = true ∧
    within 0x3DCCCCD0#32 0x40000000#32 (svfDamping (clampRes x)) = true

/-! ## Noise -/

/-- R280 to R283, `NOISE_SET_AMP`, `NOISE_SEED` and `NOISE_PROCESS`: the amplitude clamped to [0, 1], a
zero seed replaced by 1, and one shift of the LFSR answered as its signed state scaled by 2^-31 and by
the amplitude; on an invalid target `NOISE_PROCESS` answers one word 0xFFFFFFFF. -/
def Obligations.NoiseCommandsActOnTheirUnit : Prop :=
  (∀ (s : State) (tgt : Byte) (n : Noise) (put : Noise → State) (x : Word), NoiseAt s tgt n put →
    let st : Word := if n.state.getLsbD 0 then (n.state >>> 1) ^^^ 0x80200003#32 else n.state >>> 1
    exec (.noiseSetAmp tgt x) s =
      .next (put { n with amp := clampf x 0x00000000#32 0x3F800000#32 }) ∧
    exec (.noiseSeed tgt x) s = .next (put { n with state := if x = 0#32 then 1#32 else x }) ∧
    exec (.noiseProcess tgt) s = .next { put { n with state := st } with
      respOut := s.respOut ++ [fmul (fmul (f32 st.toInt 1) 0x30000000#32) n.amp] }) ∧
  ∀ (s : State) (tgt : Byte), voiceTargetValid s.nv tgt = false →
    exec (.noiseProcess tgt) s = .next { s with respOut := s.respOut ++ [0xFFFFFFFF#32] }

/-- R280: the LFSR step is invertible on all words, and a non-zero state steps to a non-zero state. -/
def Obligations.LfsrStepIsInvertible : Prop :=
  Function.Bijective lfsrNext ∧ ∀ st : Word, st ≠ 0#32 → lfsrNext st ≠ 0#32

/-! ## Readback -/

/-- R169, R212, R249 and R284: the words of `OSC_READ`, `ENV_READ`, `FLT_READ` and `NOISE_READ`; the
commands change nothing else. On an invalid target the same number of words, each 0xFFFFFFFF. -/
def Obligations.UnitReadbackWords : Prop :=
  (∀ (s : State) (tgt a : Byte) (o : Osc) (put : Osc → State), OscAt s tgt a o put →
    ∃ w : Word, w.toNat = o.eoc.toNat + 2 * o.eor.toNat + 4 * o.wave.code.toNat ∧
      exec (.oscRead tgt a) s =
        .next { s with respOut := s.respOut ++ [o.acc, o.inc, w, o.amp, o.pw, o.last] }) ∧
  (∀ (s : State) (tgt a : Byte) (e : Env) (put : Env → State), EnvAt s tgt a e put →
    ∃ w : Word, w.toNat = e.stage.code.toNat + 8 * e.gate.toNat ∧
      exec (.envRead tgt a) s =
        .next { s with respOut := s.respOut ++ [w, e.level, e.aInc, e.dInc, e.rInc, e.sus] }) ∧
  (∀ (s : State) (tgt a : Byte) (f : Ladder) (put : Ladder → State), LadderAt s tgt a f put →
    exec (.fltRead tgt a) s =
      .next { s with respOut := s.respOut ++ [f.s0, f.s1, f.s2, f.s3, f.fc, f.res] }) ∧
  (∀ (s : State) (tgt a : Byte) (f : Svf) (put : Svf → State), SvfAt s tgt a f put →
    exec (.fltRead tgt a) s =
      .next { s with respOut := s.respOut ++ [f.low, f.band, f.high, 0#32, f.fc, f.res] }) ∧
  (∀ (s : State) (tgt : Byte) (n : Noise) (put : Noise → State), NoiseAt s tgt n put →
    exec (.noiseRead tgt) s = .next { s with respOut := s.respOut ++ [n.state, n.amp] }) ∧
  ∀ (s : State) (tgt a : Byte),
    let six : State := { s with respOut := s.respOut ++ List.replicate 6 0xFFFFFFFF#32 }
    (oscTargetValid s.nv tgt a = false → exec (.oscRead tgt a) s = .next six) ∧
    (unitTargetValid s.nv tgt a = false →
      exec (.envRead tgt a) s = .next six ∧ exec (.fltRead tgt a) s = .next six) ∧
    (voiceTargetValid s.nv tgt = false → exec (.noiseRead tgt) s =
      .next { s with respOut := s.respOut ++ [0xFFFFFFFF#32, 0xFFFFFFFF#32] })

/-- R420 and R422, `NOP` and `READ_VOICE`: nothing, and one word with the fields of the table, or
0xFFFFFFFF on an invalid target. -/
def Obligations.NopAndReadVoice : Prop :=
  (∀ s : State, exec .nop s = .next s) ∧
  (∀ (s : State) (tgt : Byte) (v : Voice) (put : Voice → State), VoiceAt s tgt v put →
    ∃ w : Word, exec (.readVoice tgt) s = .next { s with respOut := s.respOut ++ [w] } ∧
      (w.getLsbD 0 = true ↔ v.env0.stage ≠ .idle) ∧
      w.extractLsb' 1 3 = v.env0.stage.code ∧ w.extractLsb' 4 3 = v.env1.stage.code ∧
      w.getLsbD 7 = v.env0.gate ∧ w.extractLsb' 8 7 = v.note ∧ w.getLsbD 15 = v.osc0.eoc ∧
      w.extractLsb' 16 7 = v.vel ∧ w.getLsbD 23 = v.osc0.eor ∧ w.getLsbD 24 = v.osc1.eoc ∧
      w.getLsbD 25 = v.osc1.eor ∧ w.extractLsb' 26 6 = 0#6) ∧
  ∀ (s : State) (tgt : Byte), voiceTargetValid s.nv tgt = false →
    exec (.readVoice tgt) s = .next { s with respOut := s.respOut ++ [0xFFFFFFFF#32] }

/-! ## Voice -/

/-- R301 to R305, R314 and R315, `VOICE_NOTE_ON` and `VOICE_NOTE_OFF`: note and velocity clamped to 127
and stored, both oscillators' increments set from the note tables and the detune parameters, and both
envelopes gated; a note-off only gates them. Phases, filters and noise are not touched. That a note-off
to an inactive voice still drops a filter envelope's gate, as R302's pseudocode has it, is the model's
choice beside R315's corner case (log entry 17). -/
def Obligations.VoiceNotesSetPitchAndGate : Prop :=
  ∀ (s : State) (tgt : Byte) (v : Voice) (put : Voice → State), VoiceAt s tgt v put →
    let gate : Bool → Env → Env := fun g e =>
      { e with
        gate := g
        stage := if g = true ∧ e.gate = false then .attack
          else if g = false ∧ e.gate = true ∧ e.stage ≠ .idle then .release
          else e.stage }
    (∀ note vel : Byte,
      let n := min note.toNat 127
      let c : ℤ := (((s.panel.rawOf .detuneCoarse).toNat * 25 / 128 : ℕ) : ℤ) - 12
      let n2 := (min (max ((n : ℤ) + c) 0) 127).toNat
      exec (.voiceNoteOn tgt note vel) s = .next (put { v with
        note := BitVec.ofNat 7 n
        vel := BitVec.ofNat 7 (min vel.toNat 127)
        fnote := mtof n
        osc0 := { v.osc0 with inc := incOf s.sampleRate (mtof n) }
        osc1 := { v.osc1 with
          inc := incOf s.sampleRate
            (fmul (mtof n2) (centRatio (s.panel.rawOf .detuneFine).toNat)) }
        env0 := gate true v.env0
        env1 := gate true v.env1 })) ∧
    exec (.voiceNoteOff tgt) s =
      .next (put { v with env0 := gate false v.env0, env1 := gate false v.env1 })

/-- R306 to R313, `VOICE_PROCESS`: one voice tick with `LFO_LAST`, its sample the response. An inactive
voice answers +0 and changes nothing. An active one runs envelopes, oscillators (the second only when
enabled, synchronised in the same sample when that is on), noise, mix, gain and the selected filter, in
that order. An invalid target answers 0xFFFFFFFF. -/
def Obligations.VoiceProcessRunsTheSignalPath : Prop :=
  (∀ (s : State) (tgt : Byte) (v : Voice) (put : Voice → State), VoiceAt s tgt v put →
    exec (.voiceProcess tgt) s = .next
      { put (voiceTick s.sampleRate s.panel v s.lfoLast).1 with
        respOut := s.respOut ++ [(voiceTick s.sampleRate s.panel v s.lfoLast).2] }) ∧
  (∀ (s : State) (tgt : Byte), voiceTargetValid s.nv tgt = false →
    exec (.voiceProcess tgt) s = .next { s with respOut := s.respOut ++ [0xFFFFFFFF#32] }) ∧
  (∀ (sr : ℕ) (P : Panel) (v : Voice) (l : F32), v.env0.stage = .idle →
    voiceTick sr P v l = (v, 0x00000000#32)) ∧
  ∀ (sr : ℕ) (P : Panel) (v : Voice) (l : F32), v.env0.stage ≠ .idle →
    let e1 := envTick v.env0
    let e2 := envTick v.env1
    let fm := fmul l (P.scaledOf .fmDepth)
    let pwm := fmul l (P.scaledOf .lfoPwDepth)
    let o1 := oscStep v.osc0 fm pwm false
    let o2 := oscStep v.osc1 fm pwm (decide (64 ≤ (P.rawOf .syncEnable).toNat) && o1.1.eoc)
    let two := decide (64 ≤ (P.rawOf .osc2Enable).toNat)
    let oscs := if two then fmul (fadd o1.2 o2.2) 0x3F000000#32 else o1.2
    let nz := noiseStep v.noise
    let mix := P.scaledOf .mix
    let pre := fadd (fmul (fsub 0x3F800000#32 mix) oscs) (fmul mix nz.2)
    let x := fmul (fmul pre e1.level) (f32 v.vel.toNat 127)
    let fc := fadd (fadd (fadd (P.scaledOf .filterCutoff)
        (fmul (P.scaledOf .filterTracking) v.fnote))
        (fmul (fmul (P.scaledOf .filterEnvAmount) 0x461C4000#32) e2.level))
      (fmul (P.scaledOf .lfoCutoffDepth) l)
    let v' : Voice := { v with
      env0 := e1, env1 := e2, osc0 := o1.1, osc1 := if two then o2.1 else v.osc1, noise := nz.1 }
    voiceTick sr P v l =
      if 64 ≤ (P.rawOf .filterType).toNat then
        ({ v' with svf := (svfStep v.svf x (coefSvf sr fc).2).1 },
          (svfStep v.svf x (coefSvf sr fc).2).2)
      else
        ({ v' with ladder := (ladderStep v.ladder x (coefLadder sr fc).2).1 },
          (ladderStep v.ladder x (coefLadder sr fc).2).2)

/-- R300: the voice state machine. A note-on leads to HELD from every state; a note-off leads from HELD
to RELEASED and changes no other state; a tick leaves INACTIVE and HELD as they are and leads from
RELEASED to INACTIVE only when the release reaches 0; no command but those R300 names changes the state
of any voice. -/
def Obligations.VoiceLifecycle : Prop :=
  (∀ (s : State) (tgt note vel : Byte) (v : Voice) (put : Voice → State),
    VoiceAt s tgt v put → envOk v.env0 = true →
    (∃ x, exec (.voiceNoteOn tgt note vel) s = .next (put x) ∧ vstate x = .held) ∧
    ∃ x, exec (.voiceNoteOff tgt) s = .next (put x) ∧
      vstate x = if vstate v = .held then .released else vstate v) ∧
  (∀ (sr : ℕ) (P : Panel) (v : Voice) (l : F32), envOk v.env0 = true →
    let x := (voiceTick sr P v l).1
    (vstate v = .inactive → vstate x = .inactive) ∧
    (vstate v = .held → vstate x = .held) ∧
    (vstate v = .released →
      vstate x = if fle (fsub v.env0.level v.env0.rInc) 0x00000000#32 then .inactive
        else .released)) ∧
  ∀ (i : Instr) (s t : State) (k : ℕ) (v : Voice), actsOnLifecycle i = false →
    exec i s = .next t → s.voices[k]? = some v →
    ∃ x, t.voices[k]? = some x ∧ vstate x = vstate v

/-! ## Voice manager -/

/-- R341, `NOTE_ON`: the first inactive voice in index order takes the note, exactly as `VOICE_NOTE_ON`
addressed to it would; with no inactive voice the note is dropped; velocity 0 is a `NOTE_OFF`. -/
def Obligations.NoteOnTakesTheFirstInactiveVoice : Prop :=
  ∀ (s : State) (note vel : Byte),
    (vel ≠ 0#8 → (∀ v ∈ s.voices, active v = true) → exec (.noteOn note vel) s = .next s) ∧
    (∀ (k : ℕ) (v : Voice), vel ≠ 0#8 → s.voices[k]? = some v → active v = false →
      (∀ j < k, ∀ u, s.voices[j]? = some u → active u = true) →
      exec (.noteOn note vel) s = .next { s with
        voices := s.voices.set k (voiceNoteOn s.sampleRate s.panel v
          (BitVec.ofNat 7 (min note.toNat 127)) (BitVec.ofNat 7 (min vel.toNat 127))) } ∧
      (k < 256 → exec (.noteOn note vel) s = exec (.voiceNoteOn (BitVec.ofNat 8 k) note vel) s)) ∧
    exec (.noteOn note 0#8) s = exec (.noteOff note vel) s

/-- R342, `NOTE_OFF`: every active voice that holds the note, clamped to 127, is released; the release
velocity is ignored; nothing else changes. That it drops a filter envelope's gate on a voice already
RELEASED too, as R342's pseudocode has it, is the model's choice beside its corner case (log entry 17). -/
def Obligations.NoteOffReleasesEveryHolder : Prop :=
  ∀ (s : State) (note vel : Byte),
    exec (.noteOff note vel) s = .next { s with
      voices := s.voices.map fun v =>
        if v.env0.stage ≠ .idle ∧ v.note.toNat = min note.toNat 127 then
          { v with env0 := setGate v.env0 false, env1 := setGate v.env1 false }
        else v }

/-- R343: with `NV` voices, none active, `NV + 1` note-ons, each of its own non-zero velocity, leave every
voice active, voice `i` holding the i-th note and velocity, and the last note changes no state. The
premise `EnvsOk`, an invariant every step keeps, rules out an idle envelope whose gate is 1, on which a
note-on is no edge; that tie of gate and stage is the model's own inference. -/
def Obligations.PoolExhaustionDropsTheLastNote : Prop :=
  ∀ (s : State) (notes : List (Byte × Byte)),
    EnvsOk s → (∀ v ∈ s.voices, active v = false) → notes.length = s.voices.length + 1 →
    (∀ p ∈ notes, p.2 ≠ 0#8) →
    ∃ t, performAll (notes.map fun p => .noteOn p.1 p.2) s = .next t ∧
      performAll ((notes.take s.voices.length).map fun p => .noteOn p.1 p.2) s = .next t ∧
      t.voices.length = s.voices.length ∧
      ∀ (k : ℕ) (v : Voice) (p : Byte × Byte), t.voices[k]? = some v → notes[k]? = some p →
        active v = true ∧ v.note.toNat = min p.1.toNat 127 ∧ v.vel.toNat = min p.2.toNat 127

/-- R344 to R347, `RENDER`: no sample changes nothing; each sample steps the LFO, then every voice with
its output, and emits the sum in index order scaled by MASTER_GAIN and clipped; every sample emitted is in
[−1, 1]; the panel and every other register stay. -/
def Obligations.RenderTicksAndMixes : Prop :=
  (∀ s : State, exec (.render 0#16) s = .next s) ∧
  (∀ (s : State) (n : BitVec 16), n ≠ 0#16 →
    let lfo := oscStep s.lfo 0#32 0#32 false
    let tick := fun v => voiceTick s.sampleRate s.panel v lfo.2
    let sum := s.voices.foldl (fun acc v => fadd acc (tick v).2) 0#32
    exec (.render n) s = exec (.render (n - 1#16)) { s with
      lfo := lfo.1
      lfoLast := lfo.2
      voices := s.voices.map fun v => (tick v).1
      audioOut := s.audioOut ++
        [clampf (fmul sum (s.panel.scaledOf .masterGain)) 0xBF800000#32 0x3F800000#32] }) ∧
  ∀ (s : State) (n : BitVec 16), ∃ t ys, exec (.render n) s = .next t ∧
    t.audioOut = s.audioOut ++ ys ∧ ys.length = n.toNat ∧
    (∀ y ∈ ys, within 0xBF800000#32 0x3F800000#32 y = true) ∧
    t.panel = s.panel ∧ t.sampleRate = s.sampleRate ∧ t.voices.length = s.voices.length ∧
    t.respOut = s.respOut ∧
    ∀ (k : ℕ) (v x : Voice), s.voices[k]? = some v → t.voices[k]? = some x →
      x.note = v.note ∧ x.vel = v.vel ∧ x.fnote = v.fnote

/-- R347: block boundaries are invisible: `RENDER m` then `RENDER n` is `RENDER m + n`. -/
def Obligations.RenderBlocksAreInvisible : Prop :=
  ∀ (s : State) (m n : BitVec 16), m.toNat + n.toNat < 2 ^ 16 →
    ∃ t, performAll [.render m, .render n] s = .next t ∧ exec (.render (m + n)) s = .next t

/-- R168, R211 and R248: the block forms of oscillator, envelope and filters are the per-sample
commands one after the other: the same samples and the same end state. -/
def Obligations.BlockFormsEqualPerSampleCommands : Prop :=
  (∀ (es : List (F32 × F32 × Bool)) (reset : Bool) (s : State) (tgt a : Byte) (o : Osc)
    (put : Osc → State), OscAt s tgt a o put →
    performAll (es.map fun e => .oscProcessMod tgt a (reset && e.2.2) e.1 e.2.1) s =
      .next { put (oscBlock reset o es).1 with respOut := s.respOut ++ (oscBlock reset o es).2 }) ∧
  (∀ (gs : List Bool) (s : State) (tgt a : Byte) (e : Env) (put : Env → State),
    EnvAt s tgt a e put →
    performAll (gs.map fun g => .envProcess tgt a g) s =
      .next { put (envBlock e gs).1 with respOut := s.respOut ++ (envBlock e gs).2 }) ∧
  (∀ (es : List (F32 × F32)) (s : State) (tgt a : Byte) (f : Ladder) (put : Ladder → State),
    LadderAt s tgt a f put →
    performAll (es.map fun e => .fltProcessMod tgt a e.1 e.2) s =
      .next { put (ladderBlock s.sampleRate f es).1 with
        respOut := s.respOut ++ (ladderBlock s.sampleRate f es).2 }) ∧
  ∀ (es : List (F32 × F32)) (s : State) (tgt a : Byte) (f : Svf) (put : Svf → State),
    SvfAt s tgt a f put →
    performAll (es.map fun e => .fltProcessMod tgt a e.1 e.2) s =
      .next { put (svfBlock s.sampleRate f es).1 with
        respOut := s.respOut ++ (svfBlock s.sampleRate f es).2 }

/-! ## Parameter panel -/

/-- R384 with R382, `CONTROL_CHANGE`: an ID from 27 on is ignored; else the raw value, clamped to 127, and
its scaled value are written, no other entry of the panel changes, and exactly the registers of the ID's
own fan-out row are written, in every voice alike. That they are written also where the raw value is the
current one, whatever a unit command or reset left in them, is the model's choice beside R382's remark that
rewriting a raw value has no observable effect (log entry 18). -/
def Obligations.ControlChangeFansOut : Prop :=
  ∀ (s : State) (id value : Byte),
    (27 ≤ id.toNat → exec (.controlChange id value) s = .next s) ∧
    ∀ p : Param, (p.id : ℕ) = id.toNat →
      ∃ (P : Panel) (L : Osc) (F : Voice → Voice),
        let r : Raw := BitVec.ofNat 7 (min value.toNat 127)
        let x := scale p r
        let sr := s.sampleRate
        let unit := clampf x 0x00000000#32 0x3F800000#32
        let res := clampf x 0x00000000#32 0x3F733333#32
        exec (.controlChange id value) s =
          .next { s with panel := P, lfo := L, voices := s.voices.map F } ∧
        P.rawOf p = r ∧ P.scaledOf p = x ∧
        (∀ q, q ≠ p → P.rawOf q = s.panel.rawOf q ∧ P.scaledOf q = s.panel.scaledOf q) ∧
        match p with
        | .oscWaveform => L = s.lfo ∧ ∃ w : Waveform, w.code.toNat = r.toNat / 16 ∧
            F = fun v => { v with osc0 := { v.osc0 with wave := w }, osc1 := { v.osc1 with wave := w } }
        | .pulseWidth => L = s.lfo ∧
            F = fun v => { v with osc0 := { v.osc0 with pw := unit }, osc1 := { v.osc1 with pw := unit } }
        | .detuneCoarse | .detuneFine => L = s.lfo ∧
            F = fun v => { v with osc1 := { v.osc1 with inc := incOf sr (osc1Freq P v.note) } }
        | .noiseLevel => L = s.lfo ∧ F = fun v => { v with noise := { v.noise with amp := unit } }
        | .filterResonance => L = s.lfo ∧
            F = fun v => { v with
              ladder := { v.ladder with res := res, k := fmul 0x40800000#32 res }
              svf := { v.svf with
                res := res, q := fmul 0x40000000#32 (fsub 0x3F800000#32 res) } }
        | .ampAttack => L = s.lfo ∧
            F = fun v => { v with
              env0 := { v.env0 with aInc := tinc sr x }, env1 := { v.env1 with aInc := tinc sr x } }
        | .ampDecay => L = s.lfo ∧
            F = fun v => { v with
              env0 := { v.env0 with dInc := tinc sr x }, env1 := { v.env1 with dInc := tinc sr x } }
        | .ampSustain => L = s.lfo ∧
            F = fun v => { v with
              env0 := { v.env0 with sus := unit }, env1 := { v.env1 with sus := unit } }
        | .ampRelease => L = s.lfo ∧
            F = fun v => { v with
              env0 := { v.env0 with rInc := tinc sr x }, env1 := { v.env1 with rInc := tinc sr x } }
        | .lfoWaveform => (∃ w : Waveform, w.code.toNat = r.toNat / 16 ∧
            L = { s.lfo with wave := w }) ∧ F = fun v => v
        | .lfoRate => L = { s.lfo with inc := incOf sr x } ∧ F = fun v => v
        | .fmDepth | .mix | .filterCutoff | .filterEnvAmount | .filterTracking | .fxSlot0 | .fxSlot1
        | .fxSlot2 | .fxSlot3 | .lfoPwDepth | .lfoCutoffDepth | .osc2Enable | .syncEnable
        | .filterType | .masterGain => L = s.lfo ∧ F = fun v => v

/-- R385 and R386, `READ_PARAM`: a panel entry is read back as its raw value, zero-extended, and its
scaled value, and an ID from 27 on answers 0xFFFFFFFF, 0x00000000; after a `CONTROL_CHANGE` of (i, r)
the answer is `r` and `SCALE(i, r)`, and no raw value of FILTER_ENV_AMOUNT scales to 0. -/
def Obligations.ReadParamReturnsWhatWasWritten : Prop :=
  (∀ (s : State) (id : Byte) (p : Param), (p.id : ℕ) = id.toNat →
    exec (.readParam id) s = .next { s with
      respOut := s.respOut ++ [BitVec.ofNat 32 (s.panel.rawOf p).toNat, s.panel.scaledOf p] }) ∧
  (∀ (s : State) (id : Byte), 27 ≤ id.toNat →
    exec (.readParam id) s =
      .next { s with respOut := s.respOut ++ [0xFFFFFFFF#32, 0x00000000#32] }) ∧
  (∀ (s : State) (id value : Byte) (p : Param), (p.id : ℕ) = id.toNat → value.toNat ≤ 127 →
    ∃ t, performAll [.controlChange id value, .readParam id] s = .next t ∧
      t.respOut = s.respOut ++
        [BitVec.ofNat 32 value.toNat, scale p (BitVec.ofNat 7 value.toNat)]) ∧
  scale .filterEnvAmount 64#7 = 0x3C010204#32 ∧ scale .filterEnvAmount 63#7 = 0xBC010204#32 ∧
  ∀ r : Raw, val (scale .filterEnvAmount r) ≠ 0

/-- R380 and R381: every scaled value is the exact rational of its formula rounded once, 0 being +0.
That the bound 0.01 of FM_DEPTH is the rational 1/100 is the model's choice (log entry 19). -/
def Obligations.ScalingRoundsTheFormulaOnce : Prop :=
  ∀ (p : Param) (r : Raw),
    RoundsTo (scaleFormula p r.toNat) (scale p r) ∧
    (scaleFormula p r.toNat = 0 → scale p r = 0x00000000#32)

/-- R382, every row is idempotent: a control change given twice is one given once. That the first of them
fans out even where it rewrites the current raw value is the model's choice (log entry 18). -/
def Obligations.ControlChangeIsIdempotent : Prop :=
  ∀ (s : State) (id value : Byte),
    performAll [.controlChange id value, .controlChange id value] s =
      performAll [.controlChange id value] s

/-! ## Invariants (R45) -/

/-- The power-on state meets every invariant below, for every legal parameter set. -/
def Obligations.ResetMeetsTheInvariants : Prop :=
  ∀ c : Config, c.legal = true →
    paramsOk (State.resetFor c) = true ∧ PanelOk (State.resetFor c) ∧ OscsOk (State.resetFor c) ∧
    IntegratorsOk (State.resetFor c) ∧ EnvsOk (State.resetFor c) ∧ FiltersOk (State.resetFor c) ∧
    NoisesOk (State.resetFor c) ∧ SignalsOk (State.resetFor c) ∧
    pendingOk (State.resetFor c) = true

/-- R6, R340 and R421: no step changes the sample rate or the number of voices. -/
def Obligations.StepKeepsTheParameters : Prop :=
  ∀ s t : State, step s = .next t → t.config = s.config

/-- R33 and R45: every scaled value stays the scaling of its raw value. -/
def Obligations.StepKeepsPanelConsistent : Prop :=
  ∀ s t : State, PanelOk s → step s = .next t → PanelOk t

/-- R45: every oscillator's increment stays at most 2^31, its amplitude and pulse width in [0, 1]. -/
def Obligations.StepKeepsOscillatorsInRange : Prop :=
  ∀ s t : State, paramsOk s = true → OscsOk s → step s = .next t → OscsOk t

/-- R34 and R45: the PB_TRI integrator of every oscillator stays finite; the model's bound is 16. -/
def Obligations.StepKeepsIntegratorsBounded : Prop :=
  ∀ s t : State, paramsOk s = true → OscsOk s → IntegratorsOk s → step s = .next t → IntegratorsOk t

/-- R35 and R45: every envelope's level and sustain stay in [0, 1], its increments in (0, 1], its level
is +0 in IDLE, and its gate is 1 exactly in ATTACK, DECAY and SUSTAIN. -/
def Obligations.StepKeepsEnvelopesInRange : Prop :=
  ∀ s t : State, paramsOk s = true → EnvsOk s → step s = .next t → EnvsOk t

/-- R36, R37 and R45: every filter state stays in [−16, 16], every resonance in [0, RES_MAX], and the
derived coefficients stay those of the stored cutoff and resonance. -/
def Obligations.StepKeepsFiltersInRange : Prop :=
  ∀ s t : State, paramsOk s = true → FiltersOk s → step s = .next t → FiltersOk t

/-- R38 and R45: no LFSR state is ever 0, and every noise amplitude stays in [0, 1]. -/
def Obligations.StepKeepsNoiseAlive : Prop :=
  ∀ s t : State, paramsOk s = true → NoisesOk s → step s = .next t → NoisesOk t

/-- R45: `LFO_LAST` stays a number in [−1, 1] and every `fnote` a number. -/
def Obligations.StepKeepsSignalsFinite : Prop :=
  ∀ s t : State, OscsOk s → SignalsOk s → step s = .next t → SignalsOk t

/-- R424 as the model reads it (log entry 3): the words held are always those of an unfinished command. -/
def Obligations.StepKeepsPendingUnfinished : Prop :=
  ∀ s t : State, step s = .next t → pendingOk t = true
end

