-- ==== Sys2Proof/Laws/Encoding.lean ====
section
/-! SUPPORT. The fields of a header word as numbers (R110): what a field reads of a header built from
four bytes. -/

namespace Sys2Proof

theorem field_toNat (w : Word) (lo len : Nat) : (field w lo len).toNat = w.toNat / 2 ^ lo % 2 ^ len := by
  simp [field, BitVec.extractLsb'_toNat, Nat.shiftRight_eq_div_pow]

theorem header_toNat (op t a b : Byte) :
    (header op t a b).toNat = ((op.toNat * 256 + t.toNat) * 256 + a.toNat) * 256 + b.toNat := by
  have := t.isLt
  have := a.isLt
  have := b.isLt
  simp only [header, BitVec.toNat_append]
  rw [← Nat.shiftLeft_add_eq_or_of_lt (by assumption), ← Nat.shiftLeft_add_eq_or_of_lt (by assumption),
    ← Nat.shiftLeft_add_eq_or_of_lt (by assumption)]
  simp only [Nat.shiftLeft_eq]

@[simp] theorem opField_header (op t a b : Byte) : opField (header op t a b) = op := by
  apply BitVec.eq_of_toNat_eq
  simp only [opField, field_toNat, header_toNat]
  omega

@[simp] theorem tgtField_header (op t a b : Byte) : tgtField (header op t a b) = t := by
  apply BitVec.eq_of_toNat_eq
  simp only [tgtField, field_toNat, header_toNat]
  omega

@[simp] theorem aField_header (op t a b : Byte) : aField (header op t a b) = a := by
  apply BitVec.eq_of_toNat_eq
  simp only [aField, field_toNat, header_toNat]
  omega

@[simp] theorem bField_header (op t a b : Byte) : bField (header op t a b) = b := by
  apply BitVec.eq_of_toNat_eq
  simp only [bField, field_toNat, header_toNat]
  omega

/-- The count of `RENDER` is its A and B fields together (R347). -/
theorem countField_header (op t : Byte) (n : BitVec 16) :
    field (header op t (n.extractLsb' 8 8) (n.extractLsb' 0 8)) 0 16 = n := by
  apply BitVec.eq_of_toNat_eq
  have := n.isLt
  simp only [field_toNat, header_toNat, BitVec.extractLsb'_toNat, Nat.shiftRight_eq_div_pow]
  omega

/-- A control bit is read back from B[0]. -/
theorem boolByte_bit (x : Bool) : (boolByte x).getLsbD 0 = x := by cases x <;> rfl

/-- The opcode of the command that `Op.build` makes is the opcode it was given. -/
theorem op_build (op : Op) (h p0 p1 : Word) : (op.build h p0 p1).op = op := by cases op <;> rfl

end Sys2Proof
end

