-- ==== Sys2Proof/Laws/Float.lean ====
section
/-! SUPPORT. What rounding and comparison of binary32 patterns do, said once: rounding is monotone and
leaves representable values alone, and the order of patterns is the order of values (R9). -/

namespace Sys2Proof.Machine

/-! ## Rounding a quotient to an integer -/

/-- `rneDiv a b` is within half of `b`, and on a tie it is even. -/
theorem rneDiv_spec (a : Nat) {b : Nat} (hb : 0 < b) :
    2 * a ≤ (2 * rneDiv a b + 1) * b ∧ 2 * rneDiv a b * b ≤ 2 * a + b ∧
      (2 * a = (2 * rneDiv a b + 1) * b ∨ 2 * rneDiv a b * b = 2 * a + b → rneDiv a b % 2 = 0) := by
  have hd := Nat.div_add_mod a b
  have hr := Nat.mod_lt a hb
  have e1 : ∀ q : Nat, (2 * q + 1) * b = 2 * (b * q) + b := fun q => by ring
  have e2 : ∀ q : Nat, 2 * q * b = 2 * (b * q) := fun q => by ring
  have e3 : ∀ q : Nat, b * (q + 1) = b * q + b := fun q => by ring
  simp only [rneDiv, e1, e2]
  split
  · refine ⟨by omega, by omega, fun h => ?_⟩
    omega
  · split
    · rw [e3]
      refine ⟨by omega, by omega, fun h => ?_⟩
      omega
    · split
      · refine ⟨by omega, by omega, fun _ => by assumption⟩
      · rw [e3]
        refine ⟨by omega, by omega, fun _ => by omega⟩

theorem rneDiv_exact (q : Nat) {b : Nat} (hb : 0 < b) : rneDiv (q * b) b = q := by
  simp [rneDiv, hb]

theorem rneDiv_one (a : Nat) : rneDiv a 1 = a := by simpa using rneDiv_exact a one_pos

/-- A larger quotient rounds to a larger or equal integer. -/
theorem rneDiv_mono {a b c d : Nat} (hb : 0 < b) (hd : 0 < d) (h : a * d ≤ c * b) :
    rneDiv a b ≤ rneDiv c d := by
  by_contra hlt
  replace hlt : rneDiv c d + 1 ≤ rneDiv a b := by omega
  obtain ⟨-, h2, h3⟩ := rneDiv_spec a hb
  obtain ⟨k1, -, k3⟩ := rneDiv_spec c hd
  generalize rneDiv a b = m at *
  generalize rneDiv c d = n at *
  -- (2n + 1)·d ≥ 2c and (2m − 1)·b ≤ 2a, with a/b ≤ c/d and n + 1 ≤ m: all are equalities
  have s1 : (2 * n + 1) * d * b ≥ 2 * c * b := Nat.mul_le_mul_right b k1
  have s2 : 2 * m * b * d ≤ (2 * a + b) * d := Nat.mul_le_mul_right d h2
  have s3 : (n + 1) * (b * d) ≤ m * (b * d) := Nat.mul_le_mul_right _ hlt
  have hbd : 0 < b * d := Nat.mul_pos hb hd
  have hm : m = n + 1 := by
    by_contra hne
    have : (n + 2) * (b * d) ≤ m * (b * d) := Nat.mul_le_mul_right _ (by omega)
    nlinarith
  subst hm
  have t1 : 2 * c * b = (2 * n + 1) * d * b := by nlinarith
  have t2 : 2 * (n + 1) * b * d = (2 * a + b) * d := by nlinarith
  have p1 := k3 (.inl (Nat.eq_of_mul_eq_mul_right hb t1))
  have p2 := h3 (.inr (Nat.eq_of_mul_eq_mul_right hd t2))
  omega

theorem rneDiv_le {a b n : Nat} (hb : 0 < b) (h : a ≤ n * b) : rneDiv a b ≤ n := by
  simpa [rneDiv_one] using rneDiv_mono (c := n) hb one_pos (by simpa using h)

theorem le_rneDiv {a b n : Nat} (hb : 0 < b) (h : n * b ≤ a) : n ≤ rneDiv a b := by
  simpa [rneDiv_one] using rneDiv_mono (a := n) one_pos hb (by simpa using h)

/-! ## Rounding to a magnitude pattern -/

/-- The binade of `a / b` units: the bits dropped, `j`, leave a significand below 2^24, and of 24 bits
where any bit is dropped. -/
theorem binade_bounds (a : Nat) {b : Nat} (hb : 0 < b) :
    a < 2 ^ (Nat.log2 (a / b) - 23 + 24) * b ∧
      (0 < Nat.log2 (a / b) - 23 → 2 ^ (Nat.log2 (a / b) - 23 + 23) * b ≤ a) := by
  constructor
  · refine (Nat.div_lt_iff_lt_mul hb).mp ?_
    calc a / b < 2 ^ (Nat.log2 (a / b) + 1) := Nat.lt_log2_self
      _ ≤ _ := Nat.pow_le_pow_right (by omega) (by omega)
  · intro hj
    refine (Nat.le_div_iff_mul_le hb).mp ?_
    have hne : a / b ≠ 0 := fun h => by simp [h] at hj
    have : Nat.log2 (a / b) - 23 + 23 = Nat.log2 (a / b) := by omega
    rw [this]
    exact Nat.log2_self_le hne

theorem roundUnits_le (a b : Nat) : roundUnits a b ≤ 0x7F800000 := Nat.min_le_left _ _

/-- The pattern of a quotient before it is held to infinity. -/
def rawUnits (a b : Nat) : Nat :=
  (Nat.log2 (a / b) - 23) * 2 ^ 23 + rneDiv a (b * 2 ^ (Nat.log2 (a / b) - 23))

theorem roundUnits_eq (a b : Nat) : roundUnits a b = min 0x7F800000 (rawUnits a b) := rfl

theorem rawUnits_mono {a b c d : Nat} (hb : 0 < b) (hd : 0 < d) (h : a * d ≤ c * b) :
    rawUnits a b ≤ rawUnits c d := by
  have hq : a / b ≤ c / d := by
    refine (Nat.le_div_iff_mul_le hd).mpr ?_
    refine Nat.le_of_mul_le_mul_right ?_ hb
    calc a / b * d * b = a / b * b * d := by ring
      _ ≤ a * d := Nat.mul_le_mul_right d (Nat.div_mul_le_self a b)
      _ ≤ c * b := h
  have hlog : Nat.log2 (a / b) ≤ Nat.log2 (c / d) := by
    by_cases h0 : a / b = 0
    · simp [h0]
    · exact (Nat.le_log2 (fun h1 => h0 (Nat.le_zero.mp (h1 ▸ hq)))).mpr ((Nat.log2_self_le h0).trans hq)
  obtain ⟨ha, -⟩ := binade_bounds a hb
  obtain ⟨-, hc⟩ := binade_bounds c hd
  unfold rawUnits
  generalize hj : Nat.log2 (a / b) - 23 = j at *
  generalize hk : Nat.log2 (c / d) - 23 = k at *
  have hpj : 0 < 2 ^ j := Nat.two_pow_pos j
  have hpk : 0 < 2 ^ k := Nat.two_pow_pos k
  rcases Nat.lt_or_ge j k with hlt | hge
  · have u : rneDiv a (b * 2 ^ j) ≤ 2 ^ 24 := by
      refine rneDiv_le (Nat.mul_pos hb hpj) ?_
      calc a ≤ 2 ^ (j + 24) * b := ha.le
        _ = 2 ^ 24 * (b * 2 ^ j) := by ring
    have l : 2 ^ 23 ≤ rneDiv c (d * 2 ^ k) := by
      refine le_rneDiv (Nat.mul_pos hd hpk) ?_
      calc 2 ^ 23 * (d * 2 ^ k) = 2 ^ (k + 23) * d := by ring
        _ ≤ c := hc (by omega)
    omega
  · have : j = k := by omega
    subst this
    have := rneDiv_mono (a := a) (c := c) (Nat.mul_pos hb hpj) (Nat.mul_pos hd hpj)
      (by calc a * (d * 2 ^ j) = a * d * 2 ^ j := by ring
            _ ≤ c * b * 2 ^ j := Nat.mul_le_mul_right _ h
            _ = c * (b * 2 ^ j) := by ring)
    omega

/-- Rounding is monotone: a larger quotient has a larger or equal pattern. -/
theorem roundUnits_mono {a b c d : Nat} (hb : 0 < b) (hd : 0 < d) (h : a * d ≤ c * b) :
    roundUnits a b ≤ roundUnits c d :=
  min_le_min_left _ (rawUnits_mono hb hd h)

/-! ## The magnitude of a pattern -/

/-- The units of a magnitude pattern: `fmag` as a function of the pattern. -/
def patMag (p : Nat) : Nat := if p < 2 ^ 23 then p else (2 ^ 23 + p % 2 ^ 23) * 2 ^ (p / 2 ^ 23 - 1)

theorem fpat_lt (x : F32) : fpat x < 2 ^ 31 := Nat.mod_lt _ (by decide)

theorem fmag_eq (x : F32) : fmag x = patMag (fpat x) := by
  have h1 : fexp x = fpat x / 2 ^ 23 := by simp only [fexp, fpat]; omega
  have h2 : ffrac x = fpat x % 2 ^ 23 := by simp only [ffrac, fpat]; omega
  simp only [fmag, patMag, h1, h2]
  by_cases h : fpat x < 2 ^ 23
  · have : fpat x / 2 ^ 23 = 0 := by omega
    rw [if_pos this, if_pos h, Nat.mod_eq_of_lt h]
  · have : fpat x / 2 ^ 23 ≠ 0 := by omega
    rw [if_neg this, if_neg h]

theorem finite_iff_fpat (x : F32) : finite x = true ↔ fpat x < 0x7F800000 := by
  have h1 : fexp x = fpat x / 2 ^ 23 := by simp only [fexp, fpat]; omega
  have := fpat_lt x
  simp only [finite, h1, bne_iff_ne, ne_eq]
  omega

theorem patMag_succ_lt (p : Nat) : patMag p < patMag (p + 1) := by
  unfold patMag
  by_cases h1 : p + 1 < 2 ^ 23
  · have : p < 2 ^ 23 := by omega
    simp only [h1, this, if_true]
    omega
  · by_cases h2 : p < 2 ^ 23
    · have : p = 2 ^ 23 - 1 := by omega
      subst this
      decide
    · simp only [h1, h2, if_false]
      by_cases h3 : (p + 1) % 2 ^ 23 = 0
      · have e1 : (p + 1) / 2 ^ 23 - 1 = (p / 2 ^ 23 - 1) + 1 := by omega
        have e2 : p % 2 ^ 23 = 2 ^ 23 - 1 := by omega
        rw [e1, h3, e2, pow_succ 2 (p / 2 ^ 23 - 1)]
        have := Nat.two_pow_pos (p / 2 ^ 23 - 1)
        calc (2 ^ 23 + (2 ^ 23 - 1)) * 2 ^ (p / 2 ^ 23 - 1) < 2 ^ 24 * 2 ^ (p / 2 ^ 23 - 1) :=
              Nat.mul_lt_mul_of_pos_right (by decide) this
          _ = (2 ^ 23 + 0) * (2 ^ (p / 2 ^ 23 - 1) * 2) := by ring
      · have e1 : (p + 1) / 2 ^ 23 = p / 2 ^ 23 := by omega
        have e2 : (p + 1) % 2 ^ 23 = p % 2 ^ 23 + 1 := by omega
        rw [e1, e2]
        exact Nat.mul_lt_mul_of_pos_right (by omega) (Nat.two_pow_pos _)

theorem patMag_strictMono : StrictMono patMag := strictMono_nat_of_lt_succ patMag_succ_lt

theorem patMag_zero : patMag 0 = 0 := by decide

theorem patMag_pos {p : Nat} (h : 0 < p) : 0 < patMag p := by
  simpa [patMag_zero] using patMag_strictMono h

/-- A representable magnitude rounds to its own pattern. -/
theorem roundUnits_patMag {p : Nat} (h : p ≤ 0x7F800000) : roundUnits (patMag p) 1 = p := by
  rw [roundUnits_eq]
  suffices rawUnits (patMag p) 1 = p by omega
  unfold rawUnits
  rw [Nat.div_one]
  by_cases h1 : p < 2 ^ 23
  · have h2 : patMag p = p := if_pos h1
    have : Nat.log2 p - 23 = 0 := by
      by_cases h0 : p = 0
      · simp [h0]
      · have := (Nat.log2_lt h0).mpr h1
        omega
    simp [h2, this, rneDiv_one]
  · have h2 : patMag p = (2 ^ 23 + p % 2 ^ 23) * 2 ^ (p / 2 ^ 23 - 1) := if_neg h1
    generalize hj : p / 2 ^ 23 - 1 = j at h2
    have hlt : patMag p < 2 ^ (j + 24) := by
      rw [h2, pow_add, mul_comm]
      exact Nat.mul_lt_mul_of_pos_left (by omega) (Nat.two_pow_pos j)
    have hge : 2 ^ (j + 23) ≤ patMag p := by
      rw [h2, pow_add, mul_comm (2 ^ j)]
      exact Nat.mul_le_mul_right _ (by omega)
    have hne : patMag p ≠ 0 := by have := Nat.two_pow_pos (j + 23); omega
    have hl : Nat.log2 (patMag p) = j + 23 := by
      have a1 := (Nat.log2_lt hne).mpr hlt
      have a2 := (Nat.le_log2 hne).mpr hge
      omega
    have e : j + 23 - 23 = j := by omega
    rw [hl, e, h2, one_mul, rneDiv_exact _ (Nat.two_pow_pos j)]
    omega

/-- A quotient at most a representable magnitude rounds to at most its pattern. -/
theorem roundUnits_le_of_le {a b p : Nat} (hb : 0 < b) (hp : p ≤ 0x7F800000) (h : a ≤ patMag p * b) :
    roundUnits a b ≤ p := by
  have := roundUnits_mono (a := a) (c := patMag p) hb one_pos (by simpa using h)
  rwa [roundUnits_patMag hp] at this

/-- A quotient at least a representable magnitude rounds to at least its pattern. -/
theorem le_roundUnits_of_le {a b p : Nat} (hb : 0 < b) (hp : p ≤ 0x7F800000) (h : patMag p * b ≤ a) :
    p ≤ roundUnits a b := by
  have := roundUnits_mono (a := patMag p) (c := a) one_pos hb (by simpa using h)
  rwa [roundUnits_patMag hp] at this

/-! ## A packed value's parts -/

theorem fsign_pack (neg : Bool) {m : Nat} (h : m < 2 ^ 31) : fsign (pack neg m) = neg := by
  cases neg <;> simp [fsign, pack] <;> omega

theorem fpat_pack (neg : Bool) {m : Nat} (h : m < 2 ^ 31) : fpat (pack neg m) = m := by
  cases neg <;> simp [fpat, pack] <;> omega

/-- A value is its sign and its pattern. -/
theorem pack_parts (x : F32) : pack (fsign x) (fpat x) = x := by
  apply BitVec.eq_of_toNat_eq
  have := x.isLt
  simp only [pack, fsign, fpat, BitVec.toNat_ofNat, decide_eq_true_eq]
  split <;> omega

theorem fsign_fabs (x : F32) : fsign (fabs x) = false := by
  have : (fabs x).toNat < 2 ^ 31 := by
    rw [fabs, BitVec.toNat_and]
    exact Nat.and_lt_two_pow _ (by decide)
  simp only [fsign, decide_eq_false_iff_not]
  omega

theorem fpat_fabs (x : F32) : fpat (fabs x) = fpat x := by
  rw [fpat, fpat, fabs, BitVec.toNat_and]
  have : (0x7FFFFFFF#32).toNat = 2 ^ 31 - 1 := rfl
  rw [this, Nat.and_two_pow_sub_one_eq_mod, Nat.mod_mod]

/-! ## Order -/

/-- On finite values the integer that orders the patterns orders the values. -/
theorem fkey_le_iff_fint_le (x y : F32) : fkey x ≤ fkey y ↔ fint x ≤ fint y := by
  have hm : ∀ p q : Nat, p ≤ q ↔ patMag p ≤ patMag q := fun p q => patMag_strictMono.le_iff_le.symm
  have h0 : ∀ p : Nat, p = 0 ↔ patMag p = 0 := fun p => by
    rw [← patMag_zero]; exact patMag_strictMono.injective.eq_iff.symm
  simp only [fkey, fint, fmag_eq]
  have h1 := hm (fpat x) (fpat y)
  have h2 := hm (fpat y) (fpat x)
  have h3 := h0 (fpat x)
  have h4 := h0 (fpat y)
  split <;> split <;> omega

theorem fkey_lt_iff_fint_lt (x y : F32) : fkey x < fkey y ↔ fint x < fint y := by
  have := fkey_le_iff_fint_le y x
  omega

theorem not_isNaN_of_finite {x : F32} (h : finite x = true) : isNaN x = false := by
  simp only [finite, bne_iff_ne, ne_eq] at h
  simp [isNaN, h]

theorem fle_iff {x y : F32} :
    fle x y = true ↔ isNaN x = false ∧ isNaN y = false ∧ fkey x ≤ fkey y := by
  simp [fle, and_assoc]

theorem flt_iff {x y : F32} :
    flt x y = true ↔ isNaN x = false ∧ isNaN y = false ∧ fkey x < fkey y := by
  simp [flt, and_assoc]

theorem fle_trans {x y z : F32} (h1 : fle x y = true) (h2 : fle y z = true) : fle x z = true := by
  rw [fle_iff] at *
  exact ⟨h1.1, h2.2.1, h1.2.2.trans h2.2.2⟩

theorem fle_refl {x : F32} (h : isNaN x = false) : fle x x = true := by
  rw [fle_iff]
  exact ⟨h, h, le_refl _⟩

theorem isNaN_iff_fpat (x : F32) : isNaN x = true ↔ 0x7F800000 < fpat x := by
  have h1 : fexp x = fpat x / 2 ^ 23 := by simp only [fexp, fpat]; omega
  have h2 : ffrac x = fpat x % 2 ^ 23 := by simp only [ffrac, fpat]; omega
  have := fpat_lt x
  simp only [isNaN, h1, h2, Bool.and_eq_true, beq_iff_eq, bne_iff_ne, ne_eq]
  omega

theorem isInf_iff_fpat (x : F32) : isInf x = true ↔ fpat x = 0x7F800000 := by
  have h1 : fexp x = fpat x / 2 ^ 23 := by simp only [fexp, fpat]; omega
  have h2 : ffrac x = fpat x % 2 ^ 23 := by simp only [ffrac, fpat]; omega
  have := fpat_lt x
  simp only [isInf, h1, h2, Bool.and_eq_true, beq_iff_eq]
  omega

theorem not_isInf_of_finite {x : F32} (h : finite x = true) : isInf x = false := by
  rw [finite_iff_fpat] at h
  rw [Bool.eq_false_iff, ne_eq, isInf_iff_fpat]
  omega

/-! ## A signed quotient, rounded

Every result of the arithmetic is one of these: `n / d` units of 2^-149. -/

/-- `n / d` units, rounded once, the sign that of `n`. -/
def roundSigned (n : Int) (d : Nat) : F32 := pack (decide (n < 0)) (roundUnits n.natAbs d)

theorem roundUnits_lt (a b : Nat) : roundUnits a b < 2 ^ 31 := by
  have := roundUnits_le a b
  omega

theorem isNaN_pack_roundUnits (neg : Bool) (a b : Nat) : isNaN (pack neg (roundUnits a b)) = false := by
  rw [Bool.eq_false_iff, ne_eq, isNaN_iff_fpat, fpat_pack _ (roundUnits_lt a b)]
  have := roundUnits_le a b
  omega

theorem fkey_pack (neg : Bool) {m : Nat} (h : m < 2 ^ 31) :
    fkey (pack neg m) = if neg then -(m : Int) else m := by
  simp [fkey, fsign_pack neg h, fpat_pack neg h]

theorem roundUnits_zero (b : Nat) : roundUnits 0 b = 0 := by
  simp [roundUnits, rneDiv]

/-- A quotient at most a representable value rounds to at most it, whichever sign a zero takes. -/
theorem pack_le {neg : Bool} {n : Int} {d : Nat} {z : F32} (hd : 0 < d) (hz : isNaN z = false)
    (hs : n ≠ 0 → neg = decide (n < 0)) (h : n ≤ fint z * d) :
    fle (pack neg (roundUnits n.natAbs d)) z = true := by
  have hp : fpat z ≤ 0x7F800000 := by
    have := (isNaN_iff_fpat z).not.mp (by simp [hz])
    omega
  rw [fle_iff]
  refine ⟨isNaN_pack_roundUnits _ _ _, hz, ?_⟩
  rw [fkey_pack _ (roundUnits_lt _ _)]
  by_cases h0 : n = 0
  · subst h0
    have hz0 : 0 ≤ fint z := by
      by_contra hlt
      have : fint z * (d : Int) < 0 := mul_neg_of_neg_of_pos (by omega) (by exact_mod_cast hd)
      omega
    have hk : 0 ≤ fkey z := by
      have := fkey_le_iff_fint_le 0x00000000#32 z
      have e1 : fkey 0x00000000#32 = 0 := by decide
      have e2 : fint 0x00000000#32 = 0 := by decide
      omega
    simpa [roundUnits_zero] using hk
  · rw [hs h0]
    simp only [fint, fmag_eq] at h
    unfold fkey
    by_cases hn : n < 0
    · simp only [hn, decide_true, if_true]
      cases hsz : fsign z
      · simp only [Bool.false_eq_true, if_false]
        omega
      · simp only [if_true]
        simp only [hsz, if_true] at h
        have : fpat z ≤ roundUnits n.natAbs d := by
          refine le_roundUnits_of_le hd hp ?_
          zify
          rw [abs_of_neg hn]
          linarith
        omega
    · simp only [hn, decide_false, Bool.false_eq_true, if_false]
      cases hsz : fsign z
      · simp only [Bool.false_eq_true, if_false]
        simp only [hsz, Bool.false_eq_true, if_false] at h
        have : roundUnits n.natAbs d ≤ fpat z := by
          refine roundUnits_le_of_le hd hp ?_
          zify
          rw [abs_of_nonneg (by omega)]
          linarith
        omega
      · simp only [hsz, if_true] at h
        have : -(patMag (fpat z) : Int) * d ≤ 0 :=
          mul_nonpos_of_nonpos_of_nonneg (by omega) (by omega)
        omega

/-- A quotient at least a representable value rounds to at least it. -/
theorem le_pack {neg : Bool} {n : Int} {d : Nat} {z : F32} (hd : 0 < d) (hz : isNaN z = false)
    (hs : n ≠ 0 → neg = decide (n < 0)) (h : fint z * d ≤ n) :
    fle z (pack neg (roundUnits n.natAbs d)) = true := by
  have hp : fpat z ≤ 0x7F800000 := by
    have := (isNaN_iff_fpat z).not.mp (by simp [hz])
    omega
  rw [fle_iff]
  refine ⟨hz, isNaN_pack_roundUnits _ _ _, ?_⟩
  rw [fkey_pack _ (roundUnits_lt _ _)]
  by_cases h0 : n = 0
  · subst h0
    have hz0 : fint z ≤ 0 := by
      by_contra hlt
      have : 0 < fint z * (d : Int) := mul_pos (by omega) (by exact_mod_cast hd)
      omega
    have hk : fkey z ≤ 0 := by
      have := fkey_le_iff_fint_le z 0x00000000#32
      have e1 : fkey 0x00000000#32 = 0 := by decide
      have e2 : fint 0x00000000#32 = 0 := by decide
      omega
    simpa [roundUnits_zero] using hk
  · rw [hs h0]
    simp only [fint, fmag_eq] at h
    unfold fkey
    by_cases hn : n < 0
    · simp only [hn, decide_true, if_true]
      cases hsz : fsign z
      · simp only [hsz, Bool.false_eq_true, if_false] at h
        have : 0 ≤ (patMag (fpat z) : Int) * d := mul_nonneg (by omega) (by omega)
        omega
      · simp only [if_true]
        simp only [hsz, if_true] at h
        have : roundUnits n.natAbs d ≤ fpat z := by
          refine roundUnits_le_of_le hd hp ?_
          zify
          rw [abs_of_neg hn]
          linarith
        omega
    · simp only [hn, decide_false, Bool.false_eq_true, if_false]
      cases hsz : fsign z
      · simp only [Bool.false_eq_true, if_false]
        simp only [hsz, Bool.false_eq_true, if_false] at h
        have : fpat z ≤ roundUnits n.natAbs d := by
          refine le_roundUnits_of_le hd hp ?_
          zify
          rw [abs_of_nonneg (by omega)]
          linarith
        omega
      · simp only [if_true]
        omega

/-! ## The arithmetic of finite values, each operation said once -/

/-- Addition of finite values: the exact sum rounded once; the sign of a zero sum aside. -/
theorem fadd_finite {x y : F32} (hx : finite x = true) (hy : finite y = true) :
    ∃ neg, fadd x y = pack neg (roundUnits (fint x + fint y).natAbs 1) ∧
      (fint x + fint y ≠ 0 → neg = decide (fint x + fint y < 0)) := by
  unfold fadd
  simp only [not_isNaN_of_finite hx, not_isNaN_of_finite hy, not_isInf_of_finite hx,
    not_isInf_of_finite hy, Bool.or_self, Bool.false_eq_true, if_false]
  by_cases h : fint x + fint y = 0
  · simp only [h, if_true, Int.natAbs_zero, roundUnits_zero, ne_eq, not_true_eq_false, false_implies,
      and_true]
    by_cases hs : (fsign x && fsign y) = true
    · exact ⟨true, by simp only [hs, if_true]; rfl⟩
    · exact ⟨false, by simp only [hs]; rfl⟩
  · exact ⟨_, by simp only [h, if_false], fun _ => rfl⟩

theorem fsign_eq_msb (x : F32) : fsign x = x.msb := by
  simp [fsign, BitVec.msb_eq_decide]

theorem fsign_fneg (x : F32) : fsign (fneg x) = !fsign x := by
  rw [fsign_eq_msb, fsign_eq_msb, fneg, BitVec.msb_xor]
  have : (0x80000000#32).msb = true := by decide
  simp [this]

theorem fpat_fneg (x : F32) : fpat (fneg x) = fpat x := by
  simp only [fpat, fneg, BitVec.toNat_xor, Nat.xor_mod_two_pow]
  simp

theorem finite_fneg (x : F32) : finite (fneg x) = finite x := by
  rw [Bool.eq_iff_iff, finite_iff_fpat, finite_iff_fpat, fpat_fneg]

theorem fint_fneg (x : F32) : fint (fneg x) = -fint x := by
  simp only [fint, fmag_eq, fsign_fneg, fpat_fneg]
  cases fsign x <;> simp

theorem finite_fabs (x : F32) : finite (fabs x) = finite x := by
  rw [Bool.eq_iff_iff, finite_iff_fpat, finite_iff_fpat, fpat_fabs]

theorem fint_fabs (x : F32) : fint (fabs x) = |fint x| := by
  simp only [fint, fmag_eq, fsign_fabs, fpat_fabs]
  cases fsign x <;> simp

theorem natAbs_fint (x : F32) : (fint x).natAbs = fmag x := by
  unfold fint
  split <;> simp

theorem fint_neg_iff {x : F32} (h : fint x ≠ 0) : fint x < 0 ↔ fsign x = true := by
  unfold fint at *
  split at h <;> simp_all
  omega

/-- Multiplication of finite values: the exact product rounded once. -/
theorem fmul_finite {x y : F32} (hx : finite x = true) (hy : finite y = true) :
    fmul x y = pack (fsign x != fsign y) (roundUnits (fint x * fint y).natAbs (2 ^ 149)) ∧
      (fint x * fint y ≠ 0 → (fsign x != fsign y) = decide (fint x * fint y < 0)) := by
  constructor
  · unfold fmul
    simp only [not_isNaN_of_finite hx, not_isNaN_of_finite hy, not_isInf_of_finite hx,
      not_isInf_of_finite hy, Bool.or_self, Bool.false_eq_true, if_false, Int.natAbs_mul, natAbs_fint]
  · intro h
    obtain ⟨h1, h2⟩ := mul_ne_zero_iff.mp h
    have a := fint_neg_iff h1
    have b := fint_neg_iff h2
    rw [Bool.eq_iff_iff, decide_eq_true_iff, mul_neg_iff]
    cases hsx : fsign x <;> cases hsy : fsign y <;> simp only [hsx, hsy] at a b <;> simp at a b ⊢ <;>
      omega

/-- Division of finite values by one that is not zero: the exact quotient rounded once. -/
theorem fdiv_finite {x y : F32} (hx : finite x = true) (hy : finite y = true) (h0 : fint y ≠ 0) :
    fdiv x y = pack (fsign x != fsign y) (roundUnits (fmag x * 2 ^ 149) (fmag y)) ∧ 0 < fmag y := by
  have hm : fmag y ≠ 0 := by
    rw [← natAbs_fint]
    simpa using h0
  unfold fdiv
  simp only [not_isNaN_of_finite hx, not_isNaN_of_finite hy, not_isInf_of_finite hx,
    not_isInf_of_finite hy, Bool.or_self, Bool.false_eq_true, if_false, hm, true_and]
  omega

/-! ### Bounds on results

Each result is at most, or at least, any representable value that the exact result is. -/

theorem fadd_le {x y z : F32} (hx : finite x = true) (hy : finite y = true) (hz : isNaN z = false)
    (h : fint x + fint y ≤ fint z) : fle (fadd x y) z = true := by
  obtain ⟨neg, e, hs⟩ := fadd_finite hx hy
  rw [e]
  exact pack_le one_pos hz hs (by simpa using h)

theorem le_fadd {x y z : F32} (hx : finite x = true) (hy : finite y = true) (hz : isNaN z = false)
    (h : fint z ≤ fint x + fint y) : fle z (fadd x y) = true := by
  obtain ⟨neg, e, hs⟩ := fadd_finite hx hy
  rw [e]
  exact le_pack one_pos hz hs (by simpa using h)

theorem fsub_le {x y z : F32} (hx : finite x = true) (hy : finite y = true) (hz : isNaN z = false)
    (h : fint x - fint y ≤ fint z) : fle (fsub x y) z = true :=
  fadd_le hx (by rwa [finite_fneg]) hz (by rw [fint_fneg]; omega)

theorem le_fsub {x y z : F32} (hx : finite x = true) (hy : finite y = true) (hz : isNaN z = false)
    (h : fint z ≤ fint x - fint y) : fle z (fsub x y) = true :=
  le_fadd hx (by rwa [finite_fneg]) hz (by rw [fint_fneg]; omega)

theorem fmul_le {x y z : F32} (hx : finite x = true) (hy : finite y = true) (hz : isNaN z = false)
    (h : fint x * fint y ≤ fint z * 2 ^ 149) : fle (fmul x y) z = true := by
  obtain ⟨e, hs⟩ := fmul_finite hx hy
  rw [e]
  exact pack_le (by positivity) hz hs (by exact_mod_cast h)

theorem le_fmul {x y z : F32} (hx : finite x = true) (hy : finite y = true) (hz : isNaN z = false)
    (h : fint z * 2 ^ 149 ≤ fint x * fint y) : fle z (fmul x y) = true := by
  obtain ⟨e, hs⟩ := fmul_finite hx hy
  rw [e]
  exact le_pack (by positivity) hz hs (by exact_mod_cast h)

/-- A value between two finite values is finite. -/
theorem finite_of_fle {x lo hi : F32} (h1 : fle lo x = true) (h2 : fle x hi = true)
    (hl : finite lo = true) (hh : finite hi = true) : finite x = true := by
  rw [fle_iff] at h1 h2
  rw [finite_iff_fpat] at *
  have a := h1.2.2
  have b := h2.2.2
  unfold fkey at a b
  split at a <;> split at a <;> split at b <;> first | omega | skip
  all_goals simp_all

/-- The order of finite values is the order of their units. -/
theorem fle_iff_fint {x y : F32} (hx : finite x = true) (hy : finite y = true) :
    fle x y = true ↔ fint x ≤ fint y := by
  rw [fle_iff, fkey_le_iff_fint_le]
  simp [not_isNaN_of_finite hx, not_isNaN_of_finite hy]

theorem flt_iff_fint {x y : F32} (hx : finite x = true) (hy : finite y = true) :
    flt x y = true ↔ fint x < fint y := by
  rw [flt_iff, fkey_lt_iff_fint_lt]
  simp [not_isNaN_of_finite hx, not_isNaN_of_finite hy]

/-! ## Clamping -/

/-- A clamp answers a bound or the value it was given, which then lies between the bounds. -/
theorem clampf_cases {x lo hi : F32} (hl : isNaN lo = false) (hh : isNaN hi = false) :
    clampf x lo hi = lo ∨ clampf x lo hi = hi ∨
      (clampf x lo hi = x ∧ fle lo x = true ∧ fle x hi = true) := by
  by_cases hn : isNaN x = true
  · simp [clampf, hn]
  · by_cases h1 : flt x lo = true
    · simp [clampf, h1]
    · by_cases h2 : flt hi x = true
      · simp [clampf, hn, h1, h2]
      · have hc : clampf x lo hi = x := by simp [clampf, hn, h1, h2]
        replace hn : isNaN x = false := by simpa using hn
        simp only [flt_iff, hl, hh, hn, true_and, not_lt] at h1 h2
        exact .inr (.inr ⟨hc, fle_iff.mpr ⟨hl, hn, h1⟩, fle_iff.mpr ⟨hn, hh, h2⟩⟩)

end Sys2Proof.Machine
end

