-- ==== Sys2Proof/Laws/State.lean ====
section
/-! SUPPORT. What each update of the state does to each field, true by `rfl`, so that no proof unfolds
a record update. -/

namespace Sys2Proof.Machine

/-! ## `State.respond` -/

@[simp] theorem State.respond_sampleRate (s : State) (ws : List Word) :
    (s.respond ws).sampleRate = s.sampleRate := rfl

@[simp] theorem State.respond_panel (s : State) (ws : List Word) :
    (s.respond ws).panel = s.panel := rfl

@[simp] theorem State.respond_lfo (s : State) (ws : List Word) :
    (s.respond ws).lfo = s.lfo := rfl

@[simp] theorem State.respond_lfoLast (s : State) (ws : List Word) :
    (s.respond ws).lfoLast = s.lfoLast := rfl

@[simp] theorem State.respond_voices (s : State) (ws : List Word) :
    (s.respond ws).voices = s.voices := rfl

@[simp] theorem State.respond_cpos (s : State) (ws : List Word) :
    (s.respond ws).cpos = s.cpos := rfl

@[simp] theorem State.respond_audioOut (s : State) (ws : List Word) :
    (s.respond ws).audioOut = s.audioOut := rfl

@[simp] theorem State.respond_respOut (s : State) (ws : List Word) :
    (s.respond ws).respOut = s.respOut ++ ws := rfl

@[simp] theorem State.respond_stream (s : State) (ws : List Word) :
    (s.respond ws).stream = s.stream := rfl

@[simp] theorem State.respond_partialCmd (s : State) (ws : List Word) :
    (s.respond ws).partialCmd = s.partialCmd := rfl

/-! ## `State.emitAudio` -/

@[simp] theorem State.emitAudio_sampleRate (s : State) (y : F32) :
    (s.emitAudio y).sampleRate = s.sampleRate := rfl

@[simp] theorem State.emitAudio_panel (s : State) (y : F32) :
    (s.emitAudio y).panel = s.panel := rfl

@[simp] theorem State.emitAudio_lfo (s : State) (y : F32) :
    (s.emitAudio y).lfo = s.lfo := rfl

@[simp] theorem State.emitAudio_lfoLast (s : State) (y : F32) :
    (s.emitAudio y).lfoLast = s.lfoLast := rfl

@[simp] theorem State.emitAudio_voices (s : State) (y : F32) :
    (s.emitAudio y).voices = s.voices := rfl

@[simp] theorem State.emitAudio_cpos (s : State) (y : F32) :
    (s.emitAudio y).cpos = s.cpos := rfl

@[simp] theorem State.emitAudio_audioOut (s : State) (y : F32) :
    (s.emitAudio y).audioOut = s.audioOut ++ [y] := rfl

@[simp] theorem State.emitAudio_respOut (s : State) (y : F32) :
    (s.emitAudio y).respOut = s.respOut := rfl

@[simp] theorem State.emitAudio_stream (s : State) (y : F32) :
    (s.emitAudio y).stream = s.stream := rfl

@[simp] theorem State.emitAudio_partialCmd (s : State) (y : F32) :
    (s.emitAudio y).partialCmd = s.partialCmd := rfl

/-! ## `State.invalidTarget` -/

@[simp] theorem State.invalidTarget_sampleRate (s : State) (op : Op) :
    (s.invalidTarget op).sampleRate = s.sampleRate := rfl

@[simp] theorem State.invalidTarget_panel (s : State) (op : Op) :
    (s.invalidTarget op).panel = s.panel := rfl

@[simp] theorem State.invalidTarget_lfo (s : State) (op : Op) :
    (s.invalidTarget op).lfo = s.lfo := rfl

@[simp] theorem State.invalidTarget_lfoLast (s : State) (op : Op) :
    (s.invalidTarget op).lfoLast = s.lfoLast := rfl

@[simp] theorem State.invalidTarget_voices (s : State) (op : Op) :
    (s.invalidTarget op).voices = s.voices := rfl

@[simp] theorem State.invalidTarget_cpos (s : State) (op : Op) :
    (s.invalidTarget op).cpos = s.cpos := rfl

@[simp] theorem State.invalidTarget_audioOut (s : State) (op : Op) :
    (s.invalidTarget op).audioOut = s.audioOut := rfl

@[simp] theorem State.invalidTarget_respOut (s : State) (op : Op) :
    (s.invalidTarget op).respOut = s.respOut ++ List.replicate op.resp invalidWord := rfl

@[simp] theorem State.invalidTarget_stream (s : State) (op : Op) :
    (s.invalidTarget op).stream = s.stream := rfl

@[simp] theorem State.invalidTarget_partialCmd (s : State) (op : Op) :
    (s.invalidTarget op).partialCmd = s.partialCmd := rfl

/-! ## `State.setVoice` -/

@[simp] theorem State.setVoice_sampleRate (s : State) (v : Nat) (x : Voice) :
    (s.setVoice v x).sampleRate = s.sampleRate := rfl

@[simp] theorem State.setVoice_panel (s : State) (v : Nat) (x : Voice) :
    (s.setVoice v x).panel = s.panel := rfl

@[simp] theorem State.setVoice_lfo (s : State) (v : Nat) (x : Voice) :
    (s.setVoice v x).lfo = s.lfo := rfl

@[simp] theorem State.setVoice_lfoLast (s : State) (v : Nat) (x : Voice) :
    (s.setVoice v x).lfoLast = s.lfoLast := rfl

@[simp] theorem State.setVoice_voices (s : State) (v : Nat) (x : Voice) :
    (s.setVoice v x).voices = s.voices.set v x := rfl

@[simp] theorem State.setVoice_cpos (s : State) (v : Nat) (x : Voice) :
    (s.setVoice v x).cpos = s.cpos := rfl

@[simp] theorem State.setVoice_audioOut (s : State) (v : Nat) (x : Voice) :
    (s.setVoice v x).audioOut = s.audioOut := rfl

@[simp] theorem State.setVoice_respOut (s : State) (v : Nat) (x : Voice) :
    (s.setVoice v x).respOut = s.respOut := rfl

@[simp] theorem State.setVoice_stream (s : State) (v : Nat) (x : Voice) :
    (s.setVoice v x).stream = s.stream := rfl

@[simp] theorem State.setVoice_partialCmd (s : State) (v : Nat) (x : Voice) :
    (s.setVoice v x).partialCmd = s.partialCmd := rfl

/-! ## `State.consumeTo` -/

@[simp] theorem State.consumeTo_sampleRate (s : State) (rest : List Word) :
    (s.consumeTo rest).sampleRate = s.sampleRate := rfl

@[simp] theorem State.consumeTo_panel (s : State) (rest : List Word) :
    (s.consumeTo rest).panel = s.panel := rfl

@[simp] theorem State.consumeTo_lfo (s : State) (rest : List Word) :
    (s.consumeTo rest).lfo = s.lfo := rfl

@[simp] theorem State.consumeTo_lfoLast (s : State) (rest : List Word) :
    (s.consumeTo rest).lfoLast = s.lfoLast := rfl

@[simp] theorem State.consumeTo_voices (s : State) (rest : List Word) :
    (s.consumeTo rest).voices = s.voices := rfl

@[simp] theorem State.consumeTo_cpos (s : State) (rest : List Word) :
    (s.consumeTo rest).cpos = s.cpos + (s.stream.length - rest.length) := rfl

@[simp] theorem State.consumeTo_audioOut (s : State) (rest : List Word) :
    (s.consumeTo rest).audioOut = s.audioOut := rfl

@[simp] theorem State.consumeTo_respOut (s : State) (rest : List Word) :
    (s.consumeTo rest).respOut = s.respOut := rfl

@[simp] theorem State.consumeTo_stream (s : State) (rest : List Word) :
    (s.consumeTo rest).stream = rest := rfl

@[simp] theorem State.consumeTo_partialCmd (s : State) (rest : List Word) :
    (s.consumeTo rest).partialCmd = [] := rfl

/-! ## `State.holdPartial` -/

@[simp] theorem State.holdPartial_sampleRate (s : State) :
    (s.holdPartial).sampleRate = s.sampleRate := rfl

@[simp] theorem State.holdPartial_panel (s : State) :
    (s.holdPartial).panel = s.panel := rfl

@[simp] theorem State.holdPartial_lfo (s : State) :
    (s.holdPartial).lfo = s.lfo := rfl

@[simp] theorem State.holdPartial_lfoLast (s : State) :
    (s.holdPartial).lfoLast = s.lfoLast := rfl

@[simp] theorem State.holdPartial_voices (s : State) :
    (s.holdPartial).voices = s.voices := rfl

@[simp] theorem State.holdPartial_cpos (s : State) :
    (s.holdPartial).cpos = s.cpos + s.stream.length := rfl

@[simp] theorem State.holdPartial_audioOut (s : State) :
    (s.holdPartial).audioOut = s.audioOut := rfl

@[simp] theorem State.holdPartial_respOut (s : State) :
    (s.holdPartial).respOut = s.respOut := rfl

@[simp] theorem State.holdPartial_stream (s : State) :
    (s.holdPartial).stream = [] := rfl

@[simp] theorem State.holdPartial_partialCmd (s : State) :
    (s.holdPartial).partialCmd = s.window := rfl

/-! ## `State.feed` -/

@[simp] theorem State.feed_sampleRate (s : State) (ws : List Word) :
    (s.feed ws).sampleRate = s.sampleRate := rfl

@[simp] theorem State.feed_panel (s : State) (ws : List Word) :
    (s.feed ws).panel = s.panel := rfl

@[simp] theorem State.feed_lfo (s : State) (ws : List Word) :
    (s.feed ws).lfo = s.lfo := rfl

@[simp] theorem State.feed_lfoLast (s : State) (ws : List Word) :
    (s.feed ws).lfoLast = s.lfoLast := rfl

@[simp] theorem State.feed_voices (s : State) (ws : List Word) :
    (s.feed ws).voices = s.voices := rfl

@[simp] theorem State.feed_cpos (s : State) (ws : List Word) :
    (s.feed ws).cpos = s.cpos := rfl

@[simp] theorem State.feed_audioOut (s : State) (ws : List Word) :
    (s.feed ws).audioOut = s.audioOut := rfl

@[simp] theorem State.feed_respOut (s : State) (ws : List Word) :
    (s.feed ws).respOut = s.respOut := rfl

@[simp] theorem State.feed_stream (s : State) (ws : List Word) :
    (s.feed ws).stream = s.stream ++ ws := rfl

@[simp] theorem State.feed_partialCmd (s : State) (ws : List Word) :
    (s.feed ws).partialCmd = s.partialCmd := rfl

/-! ## `State.placeCommand` -/

@[simp] theorem State.placeCommand_sampleRate (s : State) (ws : List Word) :
    (s.placeCommand ws).sampleRate = s.sampleRate := rfl

@[simp] theorem State.placeCommand_panel (s : State) (ws : List Word) :
    (s.placeCommand ws).panel = s.panel := rfl

@[simp] theorem State.placeCommand_lfo (s : State) (ws : List Word) :
    (s.placeCommand ws).lfo = s.lfo := rfl

@[simp] theorem State.placeCommand_lfoLast (s : State) (ws : List Word) :
    (s.placeCommand ws).lfoLast = s.lfoLast := rfl

@[simp] theorem State.placeCommand_voices (s : State) (ws : List Word) :
    (s.placeCommand ws).voices = s.voices := rfl

@[simp] theorem State.placeCommand_cpos (s : State) (ws : List Word) :
    (s.placeCommand ws).cpos = s.cpos := rfl

@[simp] theorem State.placeCommand_audioOut (s : State) (ws : List Word) :
    (s.placeCommand ws).audioOut = s.audioOut := rfl

@[simp] theorem State.placeCommand_respOut (s : State) (ws : List Word) :
    (s.placeCommand ws).respOut = s.respOut := rfl

@[simp] theorem State.placeCommand_stream (s : State) (ws : List Word) :
    (s.placeCommand ws).stream = ws ++ s.stream := rfl

@[simp] theorem State.placeCommand_partialCmd (s : State) (ws : List Word) :
    (s.placeCommand ws).partialCmd = [] := rfl

/-! ## Derived readings -/

@[simp] theorem State.respond_nv (s : State) (ws : List Word) : (s.respond ws).nv = s.nv := rfl

@[simp] theorem State.setVoice_nv (s : State) (v : Nat) (x : Voice) : (s.setVoice v x).nv = s.nv := by
  simp [State.nv]

@[simp] theorem State.respond_nil (s : State) : s.respond [] = s := by
  cases s; simp [State.respond]

@[simp] theorem State.feed_nil (s : State) : s.feed [] = s := by
  cases s; simp [State.feed]

theorem State.feed_feed (s : State) (xs ys : List Word) :
    (s.feed xs).feed ys = s.feed (xs ++ ys) := by
  simp [State.feed, List.append_assoc]

@[simp] theorem State.feed_window (s : State) (ws : List Word) :
    (s.feed ws).window = s.window ++ ws := by
  simp [State.window, List.append_assoc]

/-! ## Voice slots -/

@[simp] theorem Voice.osc_zero (v : Voice) : v.osc .zero = v.osc0 := rfl
@[simp] theorem Voice.osc_one (v : Voice) : v.osc .one = v.osc1 := rfl
@[simp] theorem Voice.env_zero (v : Voice) : v.env .zero = v.env0 := rfl
@[simp] theorem Voice.env_one (v : Voice) : v.env .one = v.env1 := rfl
@[simp] theorem Voice.setOsc_zero (v : Voice) (o : Osc) : v.setOsc .zero o = { v with osc0 := o } := rfl
@[simp] theorem Voice.setOsc_one (v : Voice) (o : Osc) : v.setOsc .one o = { v with osc1 := o } := rfl
@[simp] theorem Voice.setEnv_zero (v : Voice) (e : Env) : v.setEnv .zero e = { v with env0 := e } := rfl
@[simp] theorem Voice.setEnv_one (v : Voice) (e : Env) : v.setEnv .one e = { v with env1 := e } := rfl

/-! ## The parameter panel -/

theorem Param.ofId_id (p : Param) : Param.ofId p.id = some p := by cases p <;> rfl

theorem Param.id_injective {p q : Param} (h : p.id = q.id) : p = q := by
  have := congrArg (fun i : Fin 27 => Param.ofId i) h
  simpa [Param.ofId_id] using this

theorem Param.ofId_eq_none {i : Nat} (h : 27 ≤ i) : Param.ofId i = none := by
  unfold Param.ofId
  split <;> first | omega | rfl

@[simp] theorem Panel.write_rawOf_self (P : Panel) (p : Param) (r : Raw) :
    (P.write p r).rawOf p = r := by
  simp [Panel.write, Panel.rawOf]

@[simp] theorem Panel.write_scaledOf_self (P : Panel) (p : Param) (r : Raw) :
    (P.write p r).scaledOf p = scale p r := by
  simp [Panel.write, Panel.scaledOf]

theorem Panel.write_rawOf_other (P : Panel) {p q : Param} (r : Raw) (h : q ≠ p) :
    (P.write p r).rawOf q = P.rawOf q := by
  have : (p.id : Nat) ≠ q.id := fun e => h (Param.id_injective (Fin.ext e.symm))
  simp [Panel.write, Panel.rawOf, this]

theorem Panel.write_scaledOf_other (P : Panel) {p q : Param} (r : Raw) (h : q ≠ p) :
    (P.write p r).scaledOf q = P.scaledOf q := by
  have : (p.id : Nat) ≠ q.id := fun e => h (Param.id_injective (Fin.ext e.symm))
  simp [Panel.write, Panel.scaledOf, this]

end Sys2Proof.Machine
end

