-- ==== Sys2Proof/Laws/Ops.lean ====
section
/-! SUPPORT. Everything a targeted operation can do, said once: on the unit its target selects, and on
an invalid target. Later proofs cite these and unfold no `on…` operation. -/

namespace Sys2Proof.Machine

open Sys2Proof.Safety

theorem onVoiceAt_some {s : State} {op : Op} {v : Nat} {x : Voice} (f : Voice → Voice × List Word)
    (h : s.voices[v]? = some x) :
    onVoiceAt s op v f = (s.setVoice v (f x).1).respond (f x).2 := by
  simp [onVoiceAt, h]

theorem onVoiceAt_none {s : State} {op : Op} {v : Nat} (f : Voice → Voice × List Word)
    (h : s.voices[v]? = none) : onVoiceAt s op v f = s.invalidTarget op := by
  simp [onVoiceAt, h]

/-- A voice that exists has its index below the pool size. -/
theorem lt_nv_of_get {s : State} {v : Nat} {x : Voice} (h : s.voices[v]? = some x) : v < s.nv :=
  (List.getElem?_eq_some_iff.mp h).1

theorem slotOf_zero : slotOf 0#8 = .zero := rfl

theorem slotOf_one : slotOf 1#8 = .one := rfl

/-! ## On the unit selected -/

theorem onVoice_at {s : State} {op : Op} {tgt : Byte} {v : Voice} {put : Voice → State}
    (f : Voice → Voice × List Word) (h : VoiceAt s tgt v put) :
    onVoice s op tgt f = (put (f v).1).respond (f v).2 := by
  obtain ⟨hv, rfl⟩ := h
  simp [onVoice, voiceTarget, lt_nv_of_get hv, onVoiceAt_some f hv, State.setVoice]

theorem onNoise_at {s : State} {op : Op} {tgt : Byte} {n : Noise} {put : Noise → State}
    (f : Noise → Noise × List Word) (h : NoiseAt s tgt n put) :
    onNoise s op tgt f = (put (f n).1).respond (f n).2 := by
  obtain ⟨v, hv, rfl, rfl⟩ := h
  exact onVoice_at _ ⟨hv, rfl⟩

theorem onEnv_at {s : State} {op : Op} {tgt a : Byte} {e : Env} {put : Env → State}
    (f : Env → Env × List Word) (h : EnvAt s tgt a e put) :
    onEnv s op tgt a f = (put (f e).1).respond (f e).2 := by
  obtain ⟨v, hv, ⟨rfl, rfl, rfl⟩ | ⟨rfl, rfl, rfl⟩⟩ := h <;>
    simp [onEnv, unitTarget, lt_nv_of_get hv, onVoiceAt_some _ hv, State.setVoice, slotOf]

theorem onFilter_ladder {s : State} {op : Op} {tgt a : Byte} {f : Ladder} {put : Ladder → State}
    (fl : Ladder → Ladder × List Word) (fs : Svf → Svf × List Word) (h : LadderAt s tgt a f put) :
    onFilter s op tgt a fl fs = (put (fl f).1).respond (fl f).2 := by
  obtain ⟨v, hv, rfl, rfl, rfl⟩ := h
  simp [onFilter, unitTarget, lt_nv_of_get hv, onVoiceAt_some _ hv, State.setVoice, slotOf]

theorem onFilter_svf {s : State} {op : Op} {tgt a : Byte} {f : Svf} {put : Svf → State}
    (fl : Ladder → Ladder × List Word) (fs : Svf → Svf × List Word) (h : SvfAt s tgt a f put) :
    onFilter s op tgt a fl fs = (put (fs f).1).respond (fs f).2 := by
  obtain ⟨v, hv, rfl, rfl, rfl⟩ := h
  simp [onFilter, unitTarget, lt_nv_of_get hv, onVoiceAt_some _ hv, State.setVoice, slotOf]

theorem onOsc_at {s : State} {op : Op} {tgt a : Byte} {o : Osc} {put : Osc → State}
    (f : Osc → Osc × List Word) (h : OscAt s tgt a o put) :
    onOsc s op tgt a f = (put (f o).1).respond (f o).2 := by
  obtain ⟨v, hv, ⟨rfl, rfl, rfl⟩ | ⟨rfl, rfl, rfl⟩⟩ | ⟨hv, rfl, rfl, rfl, rfl⟩ := h
  · simp [onOsc, oscTarget, lt_nv_of_get hv, onVoiceAt_some _ hv, State.setVoice, slotOf]
  · simp [onOsc, oscTarget, lt_nv_of_get hv, onVoiceAt_some _ hv, State.setVoice, slotOf]
  · have : ¬ 255 < s.nv := by
      simpa [State.nv, List.getElem?_eq_none_iff] using hv
    simp [onOsc, oscTarget, this]

/-! ## On an invalid target (R121) -/

theorem onVoice_invalid {s : State} {op : Op} {tgt : Byte} (f : Voice → Voice × List Word)
    (h : voiceTargetValid s.nv tgt = false) : onVoice s op tgt f = s.invalidTarget op := by
  have : ¬ tgt.toNat < s.nv := by simpa [voiceTargetValid] using h
  simp [onVoice, voiceTarget, this]

theorem onNoise_invalid {s : State} {op : Op} {tgt : Byte} (f : Noise → Noise × List Word)
    (h : voiceTargetValid s.nv tgt = false) : onNoise s op tgt f = s.invalidTarget op :=
  onVoice_invalid _ h

theorem unitTarget_invalid {nv : Nat} {tgt a : Byte} (h : unitTargetValid nv tgt a = false) :
    unitTarget nv tgt a = none := by
  have : ¬ (tgt.toNat < nv ∧ a.toNat ≤ 1) := by simpa [unitTargetValid] using h
  simp only [unitTarget, this, if_false]

theorem onEnv_invalid {s : State} {op : Op} {tgt a : Byte} (f : Env → Env × List Word)
    (h : unitTargetValid s.nv tgt a = false) : onEnv s op tgt a f = s.invalidTarget op := by
  simp [onEnv, unitTarget_invalid h]

theorem onFilter_invalid {s : State} {op : Op} {tgt a : Byte} (fl : Ladder → Ladder × List Word)
    (fs : Svf → Svf × List Word) (h : unitTargetValid s.nv tgt a = false) :
    onFilter s op tgt a fl fs = s.invalidTarget op := by
  simp [onFilter, unitTarget_invalid h]

theorem onOsc_invalid {s : State} {op : Op} {tgt a : Byte} (f : Osc → Osc × List Word)
    (h : oscTargetValid s.nv tgt a = false) : onOsc s op tgt a f = s.invalidTarget op := by
  have h' : ¬ (tgt.toNat < s.nv ∧ a.toNat ≤ 1) ∧ ¬ (tgt = 0xFF#8 ∧ a = 0#8) := by
    simpa [oscTargetValid] using h
  simp only [onOsc, oscTarget, h'.1, h'.2, if_false]

/-! ## A target is valid exactly when it selects a unit -/

theorem exists_voice_of_lt {s : State} {v : Nat} (h : v < s.nv) : ∃ x, s.voices[v]? = some x :=
  ⟨s.voices[v]'h, List.getElem?_eq_getElem h⟩

theorem exists_voiceAt {s : State} {tgt : Byte} (h : voiceTargetValid s.nv tgt = true) :
    ∃ v put, VoiceAt s tgt v put := by
  obtain ⟨x, hx⟩ := exists_voice_of_lt (s := s) (v := tgt.toNat) (by simpa [voiceTargetValid] using h)
  exact ⟨x, _, hx, rfl⟩

theorem byte_le_one {a : Byte} (h : a.toNat ≤ 1) : a = 0#8 ∨ a = 1#8 := by
  have : a.toNat = 0 ∨ a.toNat = 1 := by omega
  exact this.imp (fun h => BitVec.eq_of_toNat_eq h) fun h => BitVec.eq_of_toNat_eq h

theorem exists_envAt {s : State} {tgt a : Byte} (h : unitTargetValid s.nv tgt a = true) :
    ∃ e put, EnvAt s tgt a e put := by
  obtain ⟨ht, ha⟩ : tgt.toNat < s.nv ∧ a.toNat ≤ 1 := by simpa [unitTargetValid] using h
  obtain ⟨x, hx⟩ := exists_voice_of_lt ht
  obtain rfl | rfl := byte_le_one ha
  · exact ⟨_, _, x, hx, .inl ⟨rfl, rfl, rfl⟩⟩
  · exact ⟨_, _, x, hx, .inr ⟨rfl, rfl, rfl⟩⟩

theorem exists_filterAt {s : State} {tgt a : Byte} (h : unitTargetValid s.nv tgt a = true) :
    (∃ f put, LadderAt s tgt a f put) ∨ ∃ f put, SvfAt s tgt a f put := by
  obtain ⟨ht, ha⟩ : tgt.toNat < s.nv ∧ a.toNat ≤ 1 := by simpa [unitTargetValid] using h
  obtain ⟨x, hx⟩ := exists_voice_of_lt ht
  obtain rfl | rfl := byte_le_one ha
  · exact .inl ⟨_, _, x, hx, rfl, rfl, rfl⟩
  · exact .inr ⟨_, _, x, hx, rfl, rfl, rfl⟩

theorem exists_oscAt {s : State} {tgt a : Byte} (h : oscTargetValid s.nv tgt a = true) :
    ∃ o put, OscAt s tgt a o put := by
  by_cases hv : tgt.toNat < s.nv ∧ a.toNat ≤ 1
  · obtain ⟨x, hx⟩ := exists_voice_of_lt hv.1
    obtain rfl | rfl := byte_le_one hv.2
    · exact ⟨_, _, .inl ⟨x, hx, .inl ⟨rfl, rfl, rfl⟩⟩⟩
    · exact ⟨_, _, .inl ⟨x, hx, .inr ⟨rfl, rfl, rfl⟩⟩⟩
  · have h2 : tgt = 0xFF#8 ∧ a = 0#8 := by
      simp only [oscTargetValid, Bool.or_eq_true, Bool.and_eq_true, decide_eq_true_eq, beq_iff_eq] at h
      exact h.resolve_left hv
    obtain ⟨rfl, rfl⟩ := h2
    have hn : s.voices[(0xFF#8).toNat]? = none := by
      simp only [List.getElem?_eq_none_iff]
      have : ¬ (0xFF#8).toNat < s.nv := fun h => hv ⟨h, by decide⟩
      simpa [State.nv] using this
    exact ⟨_, _, .inr ⟨hn, rfl, rfl, rfl, rfl⟩⟩

end Sys2Proof.Machine
end

