-- ==== Sys2Proof/Laws/Frames.lean ====
section
/-! SUPPORT. Frames: what the shared operations and the sample tick leave unchanged. -/

namespace Sys2Proof.Machine

/-! ## `onVoiceAt` -/

@[simp] theorem onVoiceAt_sampleRate (s : State) (op : Op) (v : Nat) (f : Voice → Voice × List Word) :
    (onVoiceAt s op v f).sampleRate = s.sampleRate := by
  simp only [onVoiceAt]; split <;> rfl

@[simp] theorem onVoiceAt_panel (s : State) (op : Op) (v : Nat) (f : Voice → Voice × List Word) :
    (onVoiceAt s op v f).panel = s.panel := by
  simp only [onVoiceAt]; split <;> rfl

@[simp] theorem onVoiceAt_lfo (s : State) (op : Op) (v : Nat) (f : Voice → Voice × List Word) :
    (onVoiceAt s op v f).lfo = s.lfo := by
  simp only [onVoiceAt]; split <;> rfl

@[simp] theorem onVoiceAt_lfoLast (s : State) (op : Op) (v : Nat) (f : Voice → Voice × List Word) :
    (onVoiceAt s op v f).lfoLast = s.lfoLast := by
  simp only [onVoiceAt]; split <;> rfl

@[simp] theorem onVoiceAt_cpos (s : State) (op : Op) (v : Nat) (f : Voice → Voice × List Word) :
    (onVoiceAt s op v f).cpos = s.cpos := by
  simp only [onVoiceAt]; split <;> rfl

@[simp] theorem onVoiceAt_audioOut (s : State) (op : Op) (v : Nat) (f : Voice → Voice × List Word) :
    (onVoiceAt s op v f).audioOut = s.audioOut := by
  simp only [onVoiceAt]; split <;> rfl

@[simp] theorem onVoiceAt_stream (s : State) (op : Op) (v : Nat) (f : Voice → Voice × List Word) :
    (onVoiceAt s op v f).stream = s.stream := by
  simp only [onVoiceAt]; split <;> rfl

@[simp] theorem onVoiceAt_partialCmd (s : State) (op : Op) (v : Nat) (f : Voice → Voice × List Word) :
    (onVoiceAt s op v f).partialCmd = s.partialCmd := by
  simp only [onVoiceAt]; split <;> rfl

@[simp] theorem onVoiceAt_nv (s : State) (op : Op) (v : Nat) (f : Voice → Voice × List Word) :
    (onVoiceAt s op v f).nv = s.nv := by
  simp only [onVoiceAt]; split <;> simp [State.nv]

/-! ## `onVoice` -/

@[simp] theorem onVoice_sampleRate (s : State) (op : Op) (tgt : Byte) (f : Voice → Voice × List Word) :
    (onVoice s op tgt f).sampleRate = s.sampleRate := by
  simp only [onVoice]; split <;> simp

@[simp] theorem onVoice_panel (s : State) (op : Op) (tgt : Byte) (f : Voice → Voice × List Word) :
    (onVoice s op tgt f).panel = s.panel := by
  simp only [onVoice]; split <;> simp

@[simp] theorem onVoice_lfo (s : State) (op : Op) (tgt : Byte) (f : Voice → Voice × List Word) :
    (onVoice s op tgt f).lfo = s.lfo := by
  simp only [onVoice]; split <;> simp

@[simp] theorem onVoice_lfoLast (s : State) (op : Op) (tgt : Byte) (f : Voice → Voice × List Word) :
    (onVoice s op tgt f).lfoLast = s.lfoLast := by
  simp only [onVoice]; split <;> simp

@[simp] theorem onVoice_cpos (s : State) (op : Op) (tgt : Byte) (f : Voice → Voice × List Word) :
    (onVoice s op tgt f).cpos = s.cpos := by
  simp only [onVoice]; split <;> simp

@[simp] theorem onVoice_audioOut (s : State) (op : Op) (tgt : Byte) (f : Voice → Voice × List Word) :
    (onVoice s op tgt f).audioOut = s.audioOut := by
  simp only [onVoice]; split <;> simp

@[simp] theorem onVoice_stream (s : State) (op : Op) (tgt : Byte) (f : Voice → Voice × List Word) :
    (onVoice s op tgt f).stream = s.stream := by
  simp only [onVoice]; split <;> simp

@[simp] theorem onVoice_partialCmd (s : State) (op : Op) (tgt : Byte) (f : Voice → Voice × List Word) :
    (onVoice s op tgt f).partialCmd = s.partialCmd := by
  simp only [onVoice]; split <;> simp

@[simp] theorem onVoice_nv (s : State) (op : Op) (tgt : Byte) (f : Voice → Voice × List Word) :
    (onVoice s op tgt f).nv = s.nv := by
  simp only [onVoice]; split
  · simp [State.nv]
  · simp

/-! ## `onNoise` -/

@[simp] theorem onNoise_sampleRate (s : State) (op : Op) (tgt : Byte) (f : Noise → Noise × List Word) :
    (onNoise s op tgt f).sampleRate = s.sampleRate := by
  simp [onNoise]

@[simp] theorem onNoise_panel (s : State) (op : Op) (tgt : Byte) (f : Noise → Noise × List Word) :
    (onNoise s op tgt f).panel = s.panel := by
  simp [onNoise]

@[simp] theorem onNoise_lfo (s : State) (op : Op) (tgt : Byte) (f : Noise → Noise × List Word) :
    (onNoise s op tgt f).lfo = s.lfo := by
  simp [onNoise]

@[simp] theorem onNoise_lfoLast (s : State) (op : Op) (tgt : Byte) (f : Noise → Noise × List Word) :
    (onNoise s op tgt f).lfoLast = s.lfoLast := by
  simp [onNoise]

@[simp] theorem onNoise_cpos (s : State) (op : Op) (tgt : Byte) (f : Noise → Noise × List Word) :
    (onNoise s op tgt f).cpos = s.cpos := by
  simp [onNoise]

@[simp] theorem onNoise_audioOut (s : State) (op : Op) (tgt : Byte) (f : Noise → Noise × List Word) :
    (onNoise s op tgt f).audioOut = s.audioOut := by
  simp [onNoise]

@[simp] theorem onNoise_stream (s : State) (op : Op) (tgt : Byte) (f : Noise → Noise × List Word) :
    (onNoise s op tgt f).stream = s.stream := by
  simp [onNoise]

@[simp] theorem onNoise_partialCmd (s : State) (op : Op) (tgt : Byte) (f : Noise → Noise × List Word) :
    (onNoise s op tgt f).partialCmd = s.partialCmd := by
  simp [onNoise]

@[simp] theorem onNoise_nv (s : State) (op : Op) (tgt : Byte) (f : Noise → Noise × List Word) :
    (onNoise s op tgt f).nv = s.nv := by
  simp [onNoise]

/-! ## `onEnv` -/

@[simp] theorem onEnv_sampleRate (s : State) (op : Op) (tgt a : Byte) (f : Env → Env × List Word) :
    (onEnv s op tgt a f).sampleRate = s.sampleRate := by
  simp only [onEnv]; split <;> simp

@[simp] theorem onEnv_panel (s : State) (op : Op) (tgt a : Byte) (f : Env → Env × List Word) :
    (onEnv s op tgt a f).panel = s.panel := by
  simp only [onEnv]; split <;> simp

@[simp] theorem onEnv_lfo (s : State) (op : Op) (tgt a : Byte) (f : Env → Env × List Word) :
    (onEnv s op tgt a f).lfo = s.lfo := by
  simp only [onEnv]; split <;> simp

@[simp] theorem onEnv_lfoLast (s : State) (op : Op) (tgt a : Byte) (f : Env → Env × List Word) :
    (onEnv s op tgt a f).lfoLast = s.lfoLast := by
  simp only [onEnv]; split <;> simp

@[simp] theorem onEnv_cpos (s : State) (op : Op) (tgt a : Byte) (f : Env → Env × List Word) :
    (onEnv s op tgt a f).cpos = s.cpos := by
  simp only [onEnv]; split <;> simp

@[simp] theorem onEnv_audioOut (s : State) (op : Op) (tgt a : Byte) (f : Env → Env × List Word) :
    (onEnv s op tgt a f).audioOut = s.audioOut := by
  simp only [onEnv]; split <;> simp

@[simp] theorem onEnv_stream (s : State) (op : Op) (tgt a : Byte) (f : Env → Env × List Word) :
    (onEnv s op tgt a f).stream = s.stream := by
  simp only [onEnv]; split <;> simp

@[simp] theorem onEnv_partialCmd (s : State) (op : Op) (tgt a : Byte) (f : Env → Env × List Word) :
    (onEnv s op tgt a f).partialCmd = s.partialCmd := by
  simp only [onEnv]; split <;> simp

@[simp] theorem onEnv_nv (s : State) (op : Op) (tgt a : Byte) (f : Env → Env × List Word) :
    (onEnv s op tgt a f).nv = s.nv := by
  simp only [onEnv]; split
  · simp [State.nv]
  · simp

/-! ## `onFilter` -/

@[simp] theorem onFilter_sampleRate (s : State) (op : Op) (tgt a : Byte) (f : Ladder → Ladder × List Word)
    (g : Svf → Svf × List Word) :
    (onFilter s op tgt a f g).sampleRate = s.sampleRate := by
  simp only [onFilter]; split <;> simp

@[simp] theorem onFilter_panel (s : State) (op : Op) (tgt a : Byte) (f : Ladder → Ladder × List Word)
    (g : Svf → Svf × List Word) :
    (onFilter s op tgt a f g).panel = s.panel := by
  simp only [onFilter]; split <;> simp

@[simp] theorem onFilter_lfo (s : State) (op : Op) (tgt a : Byte) (f : Ladder → Ladder × List Word)
    (g : Svf → Svf × List Word) :
    (onFilter s op tgt a f g).lfo = s.lfo := by
  simp only [onFilter]; split <;> simp

@[simp] theorem onFilter_lfoLast (s : State) (op : Op) (tgt a : Byte) (f : Ladder → Ladder × List Word)
    (g : Svf → Svf × List Word) :
    (onFilter s op tgt a f g).lfoLast = s.lfoLast := by
  simp only [onFilter]; split <;> simp

@[simp] theorem onFilter_cpos (s : State) (op : Op) (tgt a : Byte) (f : Ladder → Ladder × List Word)
    (g : Svf → Svf × List Word) :
    (onFilter s op tgt a f g).cpos = s.cpos := by
  simp only [onFilter]; split <;> simp

@[simp] theorem onFilter_audioOut (s : State) (op : Op) (tgt a : Byte) (f : Ladder → Ladder × List Word)
    (g : Svf → Svf × List Word) :
    (onFilter s op tgt a f g).audioOut = s.audioOut := by
  simp only [onFilter]; split <;> simp

@[simp] theorem onFilter_stream (s : State) (op : Op) (tgt a : Byte) (f : Ladder → Ladder × List Word)
    (g : Svf → Svf × List Word) :
    (onFilter s op tgt a f g).stream = s.stream := by
  simp only [onFilter]; split <;> simp

@[simp] theorem onFilter_partialCmd (s : State) (op : Op) (tgt a : Byte) (f : Ladder → Ladder × List Word)
    (g : Svf → Svf × List Word) :
    (onFilter s op tgt a f g).partialCmd = s.partialCmd := by
  simp only [onFilter]; split <;> simp

@[simp] theorem onFilter_nv (s : State) (op : Op) (tgt a : Byte) (f : Ladder → Ladder × List Word)
    (g : Svf → Svf × List Word) :
    (onFilter s op tgt a f g).nv = s.nv := by
  simp only [onFilter]; split
  · simp [State.nv]
  · simp
  · simp

/-! ## `onOsc` -/

@[simp] theorem onOsc_sampleRate (s : State) (op : Op) (tgt a : Byte) (f : Osc → Osc × List Word) :
    (onOsc s op tgt a f).sampleRate = s.sampleRate := by
  simp only [onOsc]; split <;> simp

@[simp] theorem onOsc_panel (s : State) (op : Op) (tgt a : Byte) (f : Osc → Osc × List Word) :
    (onOsc s op tgt a f).panel = s.panel := by
  simp only [onOsc]; split <;> simp

@[simp] theorem onOsc_lfoLast (s : State) (op : Op) (tgt a : Byte) (f : Osc → Osc × List Word) :
    (onOsc s op tgt a f).lfoLast = s.lfoLast := by
  simp only [onOsc]; split <;> simp

@[simp] theorem onOsc_cpos (s : State) (op : Op) (tgt a : Byte) (f : Osc → Osc × List Word) :
    (onOsc s op tgt a f).cpos = s.cpos := by
  simp only [onOsc]; split <;> simp

@[simp] theorem onOsc_audioOut (s : State) (op : Op) (tgt a : Byte) (f : Osc → Osc × List Word) :
    (onOsc s op tgt a f).audioOut = s.audioOut := by
  simp only [onOsc]; split <;> simp

@[simp] theorem onOsc_stream (s : State) (op : Op) (tgt a : Byte) (f : Osc → Osc × List Word) :
    (onOsc s op tgt a f).stream = s.stream := by
  simp only [onOsc]; split <;> simp

@[simp] theorem onOsc_partialCmd (s : State) (op : Op) (tgt a : Byte) (f : Osc → Osc × List Word) :
    (onOsc s op tgt a f).partialCmd = s.partialCmd := by
  simp only [onOsc]; split <;> simp

@[simp] theorem onOsc_nv (s : State) (op : Op) (tgt a : Byte) (f : Osc → Osc × List Word) :
    (onOsc s op tgt a f).nv = s.nv := by
  simp only [onOsc]; split
  · simp [State.nv]
  · rfl
  · simp

/-! ## The sample tick -/

theorem tickVoices_length (sr : Nat) (P : Panel) (l : F32) (vs : List Voice) (sum : F32) :
    (tickVoices sr P l vs sum).1.length = vs.length := by
  induction vs generalizing sum with
  | nil => rfl
  | cons v vs ih => simp [tickVoices, ih]

theorem tickVoices_voices (sr : Nat) (P : Panel) (l : F32) (vs : List Voice) (sum : F32) :
    (tickVoices sr P l vs sum).1 = vs.map fun v => (voiceTick sr P v l).1 := by
  induction vs generalizing sum with
  | nil => rfl
  | cons v vs ih => simp [tickVoices, ih]

theorem tickVoices_sum (sr : Nat) (P : Panel) (l : F32) (vs : List Voice) (sum : F32) :
    (tickVoices sr P l vs sum).2 = vs.foldl (fun acc v => fadd acc (voiceTick sr P v l).2) sum := by
  induction vs generalizing sum with
  | nil => rfl
  | cons v vs ih => simp [tickVoices, ih]

@[simp] theorem sampleTick_sampleRate (s : State) : (sampleTick s).sampleRate = s.sampleRate := rfl

@[simp] theorem sampleTick_panel (s : State) : (sampleTick s).panel = s.panel := rfl

@[simp] theorem sampleTick_cpos (s : State) : (sampleTick s).cpos = s.cpos := rfl

@[simp] theorem sampleTick_respOut (s : State) : (sampleTick s).respOut = s.respOut := rfl

@[simp] theorem sampleTick_stream (s : State) : (sampleTick s).stream = s.stream := rfl

@[simp] theorem sampleTick_partialCmd (s : State) : (sampleTick s).partialCmd = s.partialCmd := rfl

@[simp] theorem sampleTick_nv (s : State) : (sampleTick s).nv = s.nv := by
  simp [sampleTick, State.nv, tickVoices_length]

/-- An induction over the samples of a `RENDER`, packaged once. -/
theorem renderSamples_invariant (p : State → Prop) (hp : ∀ s, p s → p (sampleTick s)) (n : Nat)
    {s : State} (h : p s) : p (renderSamples n s) := by
  induction n generalizing s with
  | zero => exact h
  | succ n ih => exact ih (hp s h)

theorem renderSamples_add (m n : Nat) (s : State) :
    renderSamples (m + n) s = renderSamples n (renderSamples m s) := by
  induction m generalizing s with
  | zero => simp [renderSamples]
  | succ m ih => simp [renderSamples, Nat.succ_add, ih]

@[simp] theorem renderSamples_sampleRate (n : Nat) (s : State) : (renderSamples n s).sampleRate = s.sampleRate :=
  renderSamples_invariant (fun t => t.sampleRate = s.sampleRate) (fun t h => by simp [h]) n rfl

@[simp] theorem renderSamples_panel (n : Nat) (s : State) : (renderSamples n s).panel = s.panel :=
  renderSamples_invariant (fun t => t.panel = s.panel) (fun t h => by simp [h]) n rfl

@[simp] theorem renderSamples_cpos (n : Nat) (s : State) : (renderSamples n s).cpos = s.cpos :=
  renderSamples_invariant (fun t => t.cpos = s.cpos) (fun t h => by simp [h]) n rfl

@[simp] theorem renderSamples_respOut (n : Nat) (s : State) : (renderSamples n s).respOut = s.respOut :=
  renderSamples_invariant (fun t => t.respOut = s.respOut) (fun t h => by simp [h]) n rfl

@[simp] theorem renderSamples_stream (n : Nat) (s : State) : (renderSamples n s).stream = s.stream :=
  renderSamples_invariant (fun t => t.stream = s.stream) (fun t h => by simp [h]) n rfl

@[simp] theorem renderSamples_partialCmd (n : Nat) (s : State) : (renderSamples n s).partialCmd = s.partialCmd :=
  renderSamples_invariant (fun t => t.partialCmd = s.partialCmd) (fun t h => by simp [h]) n rfl

@[simp] theorem renderSamples_nv (n : Nat) (s : State) : (renderSamples n s).nv = s.nv :=
  renderSamples_invariant (fun t => t.nv = s.nv) (fun t h => by simp [h]) n rfl

/-! ## Notes and parameters -/

theorem onFirstInactive_length (f : Voice → Voice) (vs : List Voice) :
    (onFirstInactive f vs).length = vs.length := by
  induction vs with
  | nil => rfl
  | cons v vs ih => simp only [onFirstInactive]; split <;> simp [ih]

theorem onFirstInactive_all_active (f : Voice → Voice) {vs : List Voice}
    (h : ∀ v ∈ vs, active v = true) : onFirstInactive f vs = vs := by
  induction vs with
  | nil => rfl
  | cons v vs ih =>
    simp only [List.mem_cons, forall_eq_or_imp] at h
    simp [onFirstInactive, h.1, ih h.2]

/-- Every voice after an allocation is a voice before it, or `f` of one. -/
theorem mem_onFirstInactive {f : Voice → Voice} {vs : List Voice} {v : Voice}
    (h : v ∈ onFirstInactive f vs) : v ∈ vs ∨ ∃ u ∈ vs, v = f u := by
  induction vs with
  | nil => simp [onFirstInactive] at h
  | cons w vs ih =>
    simp only [onFirstInactive] at h
    split at h <;> rcases List.mem_cons.mp h with rfl | h
    · exact .inl (by simp)
    · obtain h | ⟨u, hu, rfl⟩ := ih h
      · exact .inl (by simp [h])
      · exact .inr ⟨u, by simp [hu], rfl⟩
    · exact .inr ⟨w, by simp, rfl⟩
    · exact .inl (by simp [h])

theorem releaseNote_length (n : Raw) (vs : List Voice) : (releaseNote n vs).length = vs.length := by
  simp [releaseNote]

@[simp] theorem setParam_nv (s : State) (p : Param) (r : Raw) : (setParam s p r).nv = s.nv := by
  simp [setParam, State.nv]

end Sys2Proof.Machine
end

