-- ==== Sys2Proof/Laws/PerInstr.lean ====
section
/-! SUPPORT. Statements made of every instruction as syntax, one lemma per constructor. -/

/-! ## The shape of an encoding

A command's words are a header whose OP field is the command's opcode, and `PAY(OP)` payload words
(R110, R112, R114). -/

namespace Sys2Proof.Laws.EncodingShape

/-- The words of `i` are one header of its opcode and as many payload words as that opcode has. -/
def Statement (i : Instr) : Prop :=
  ∃ (h : Word) (ps : List Word),
    encode i = h :: ps ∧ Op.ofByte (opField h) = some i.op ∧ ps.length = i.op.pay

theorem nop : Statement .nop :=
  ⟨_, _, rfl, by rw [opField_header]; rfl, rfl⟩

theorem noteOn (note vel : Byte) : Statement (.noteOn note vel) :=
  ⟨_, _, rfl, by rw [opField_header]; rfl, rfl⟩

theorem noteOff (note vel : Byte) : Statement (.noteOff note vel) :=
  ⟨_, _, rfl, by rw [opField_header]; rfl, rfl⟩

theorem controlChange (id value : Byte) : Statement (.controlChange id value) :=
  ⟨_, _, rfl, by rw [opField_header]; rfl, rfl⟩

theorem render (count : BitVec 16) : Statement (.render count) :=
  ⟨_, _, rfl, by rw [opField_header]; rfl, rfl⟩

theorem readParam (id : Byte) : Statement (.readParam id) :=
  ⟨_, _, rfl, by rw [opField_header]; rfl, rfl⟩

theorem readVoice (tgt : Byte) : Statement (.readVoice tgt) :=
  ⟨_, _, rfl, by rw [opField_header]; rfl, rfl⟩

theorem reset : Statement .reset :=
  ⟨_, _, rfl, by rw [opField_header]; rfl, rfl⟩

theorem oscSetFreq (tgt osc : Byte) (freq : Word) : Statement (.oscSetFreq tgt osc freq) :=
  ⟨_, _, rfl, by rw [opField_header]; rfl, rfl⟩

theorem oscSetWaveform (tgt osc code : Byte) : Statement (.oscSetWaveform tgt osc code) :=
  ⟨_, _, rfl, by rw [opField_header]; rfl, rfl⟩

theorem oscSetAmp (tgt osc : Byte) (amp : Word) : Statement (.oscSetAmp tgt osc amp) :=
  ⟨_, _, rfl, by rw [opField_header]; rfl, rfl⟩

theorem oscSetPw (tgt osc : Byte) (pw : Word) : Statement (.oscSetPw tgt osc pw) :=
  ⟨_, _, rfl, by rw [opField_header]; rfl, rfl⟩

theorem oscPhaseAdd (tgt osc : Byte) (delta : Word) : Statement (.oscPhaseAdd tgt osc delta) :=
  ⟨_, _, rfl, by rw [opField_header]; rfl, rfl⟩

theorem oscReset (tgt osc : Byte) : Statement (.oscReset tgt osc) :=
  ⟨_, _, rfl, by rw [opField_header]; rfl, rfl⟩

theorem oscProcess (tgt osc : Byte) : Statement (.oscProcess tgt osc) :=
  ⟨_, _, rfl, by rw [opField_header]; rfl, rfl⟩

theorem oscProcessMod (tgt osc : Byte) (rst : Bool) (fm pwm : Word) : Statement (.oscProcessMod tgt osc rst fm pwm) :=
  ⟨_, _, rfl, by rw [opField_header]; rfl, rfl⟩

theorem oscRead (tgt osc : Byte) : Statement (.oscRead tgt osc) :=
  ⟨_, _, rfl, by rw [opField_header]; rfl, rfl⟩

theorem envSetAttack (tgt env : Byte) (time : Word) : Statement (.envSetAttack tgt env time) :=
  ⟨_, _, rfl, by rw [opField_header]; rfl, rfl⟩

theorem envSetDecay (tgt env : Byte) (time : Word) : Statement (.envSetDecay tgt env time) :=
  ⟨_, _, rfl, by rw [opField_header]; rfl, rfl⟩

theorem envSetSustain (tgt env : Byte) (level : Word) : Statement (.envSetSustain tgt env level) :=
  ⟨_, _, rfl, by rw [opField_header]; rfl, rfl⟩

theorem envSetRelease (tgt env : Byte) (time : Word) : Statement (.envSetRelease tgt env time) :=
  ⟨_, _, rfl, by rw [opField_header]; rfl, rfl⟩

theorem envSetGate (tgt env : Byte) (gate : Bool) : Statement (.envSetGate tgt env gate) :=
  ⟨_, _, rfl, by rw [opField_header]; rfl, rfl⟩

theorem envProcess (tgt env : Byte) (gate : Bool) : Statement (.envProcess tgt env gate) :=
  ⟨_, _, rfl, by rw [opField_header]; rfl, rfl⟩

theorem envRead (tgt env : Byte) : Statement (.envRead tgt env) :=
  ⟨_, _, rfl, by rw [opField_header]; rfl, rfl⟩

theorem fltSetFreq (tgt kind : Byte) (fc : Word) : Statement (.fltSetFreq tgt kind fc) :=
  ⟨_, _, rfl, by rw [opField_header]; rfl, rfl⟩

theorem fltSetRes (tgt kind : Byte) (res : Word) : Statement (.fltSetRes tgt kind res) :=
  ⟨_, _, rfl, by rw [opField_header]; rfl, rfl⟩

theorem fltProcess (tgt kind : Byte) (x : Word) : Statement (.fltProcess tgt kind x) :=
  ⟨_, _, rfl, by rw [opField_header]; rfl, rfl⟩

theorem fltProcessMod (tgt kind : Byte) (x fc : Word) : Statement (.fltProcessMod tgt kind x fc) :=
  ⟨_, _, rfl, by rw [opField_header]; rfl, rfl⟩

theorem fltRead (tgt kind : Byte) : Statement (.fltRead tgt kind) :=
  ⟨_, _, rfl, by rw [opField_header]; rfl, rfl⟩

theorem noiseSetAmp (tgt : Byte) (amp : Word) : Statement (.noiseSetAmp tgt amp) :=
  ⟨_, _, rfl, by rw [opField_header]; rfl, rfl⟩

theorem noiseSeed (tgt : Byte) (seed : Word) : Statement (.noiseSeed tgt seed) :=
  ⟨_, _, rfl, by rw [opField_header]; rfl, rfl⟩

theorem noiseProcess (tgt : Byte) : Statement (.noiseProcess tgt) :=
  ⟨_, _, rfl, by rw [opField_header]; rfl, rfl⟩

theorem noiseRead (tgt : Byte) : Statement (.noiseRead tgt) :=
  ⟨_, _, rfl, by rw [opField_header]; rfl, rfl⟩

theorem voiceNoteOn (tgt note vel : Byte) : Statement (.voiceNoteOn tgt note vel) :=
  ⟨_, _, rfl, by rw [opField_header]; rfl, rfl⟩

theorem voiceNoteOff (tgt : Byte) : Statement (.voiceNoteOff tgt) :=
  ⟨_, _, rfl, by rw [opField_header]; rfl, rfl⟩

theorem voiceProcess (tgt : Byte) : Statement (.voiceProcess tgt) :=
  ⟨_, _, rfl, by rw [opField_header]; rfl, rfl⟩

end Sys2Proof.Laws.EncodingShape
end

