-- ==== Sys2Proof/Tests/Slice0.lean ====
section
/-! SUPPORT. Tests of single steps and witnesses of the statements' hypotheses. Every expected value is
taken from spec/: the vectors and programs of 95_test_vectors.md (their names stand in the docstrings)
or the rule cited. -/

namespace Sys2Proof.Tests

open Sys2Proof Sys2Proof.Machine Sys2Proof.Safety

-- One theorem at a time: each is a kernel evaluation, and side by side they need more memory than the
-- check allows.
set_option Elab.async false

/-! ## Helpers -/

/-- The state after reset with two voices at the sample rate of the vectors. -/
def two : State := State.resetFor { sampleRate := 48000, numVoices := 2 }

/-- One step with these words placed first. -/
def on (s : State) (ws : List Word) : State := stepOn (s.placeCommand ws)

/-- The response words of one step from the state `s`, none having been emitted before. -/
def resp (s : State) (ws : List Word) : List Word := (on { s with respOut := [] } ws).respOut

/-- A component of the first voice of a state. -/
def first {α : Type} (f : Voice → α) (s : State) : Option α := s.voices.head?.map f

/-- The state with the first voice replaced by `f` of it. -/
def edit (s : State) (f : Voice → Voice) : State := { s with voices := s.voices.modify 0 f }

/-- The outcome is a next state. -/
def isNext : Host.Outcome State Fault Refusal → Bool
  | .next _ => true
  | .fault _ => false
  | .refused _ => false

theorem next_of_isNext {o : Host.Outcome State Fault Refusal} (h : isNext o = true) :
    ∃ t, o = .next t := by
  cases o with
  | next t => exact ⟨t, rfl⟩
  | fault r => cases h
  | refused r => cases h

/-! ## Well-formedness: an ill-formed term for each check -/

/-- R6: a sample rate of 8000 to 192000 and 1 to 255 voices. -/
theorem test_config_legal :
    Config.legal { sampleRate := 48000, numVoices := 16 } = true ∧
    Config.legal { sampleRate := 8000, numVoices := 1 } = true ∧
    Config.legal { sampleRate := 192000, numVoices := 255 } = true ∧
    Config.legal { sampleRate := 7999, numVoices := 16 } = false ∧
    Config.legal { sampleRate := 192001, numVoices := 16 } = false ∧
    Config.legal { sampleRate := 48000, numVoices := 0 } = false ∧
    Config.legal { sampleRate := 48000, numVoices := 256 } = false := by decide

/-- R117: A is 0 or 1 for a voice's oscillator, TGT below `NV`, and 0xFF with A = 0 is the LFO. -/
theorem test_osc_target_checked :
    (Instr.oscReset 15#8 1#8).wellFormed 16 = true ∧
    (Instr.oscReset 0xFF#8 0#8).wellFormed 16 = true ∧
    (Instr.oscReset 15#8 2#8).wellFormed 16 = false ∧
    (Instr.oscReset 16#8 0#8).wellFormed 16 = false ∧
    (Instr.oscReset 0xFF#8 1#8).wellFormed 16 = false := by decide

/-- R118, R119 and R120: the targets of envelopes, filters, noise units and voices. -/
theorem test_unit_target_checked :
    (Instr.envRead 15#8 1#8).wellFormed 16 = true ∧
    (Instr.envRead 15#8 2#8).wellFormed 16 = false ∧
    (Instr.fltRead 16#8 0#8).wellFormed 16 = false ∧
    (Instr.noiseRead 0xFF#8).wellFormed 16 = false ∧
    (Instr.voiceProcess 16#8).wellFormed 16 = false ∧
    (Instr.readVoice 15#8).wellFormed 16 = true := by decide

/-- R115: the operands that a rule clamps or ignores. -/
theorem test_operand_range_checked :
    (Instr.noteOn 127#8 127#8).wellFormed 16 = true ∧
    (Instr.noteOn 128#8 0#8).wellFormed 16 = false ∧
    (Instr.noteOn 0#8 128#8).wellFormed 16 = false ∧
    (Instr.noteOff 200#8 255#8).wellFormed 16 = false ∧
    (Instr.voiceNoteOn 0#8 0#8 255#8).wellFormed 16 = false ∧
    (Instr.controlChange 27#8 0#8).wellFormed 16 = false ∧
    (Instr.controlChange 26#8 128#8).wellFormed 16 = false ∧
    (Instr.readParam 27#8).wellFormed 16 = false ∧
    (Instr.oscSetWaveform 0#8 0#8 8#8).wellFormed 16 = false ∧
    (Instr.oscSetWaveform 0#8 0#8 7#8).wellFormed 16 = true := by decide

/-! ## Decoding: words written out from R110, R112 and R114 -/

/-- R114, system commands; the first word in bits, OP 00000001, TGT 0, A = 01000101, B = 01111111. -/
theorem test_decode_system :
    decode [0b00000001000000000100010101111111#32] = .command (.noteOn 69#8 127#8) [] ∧
    decode [0x00ABCDEF#32] = .command .nop [] ∧
    decode [0x02003C40#32] = .command (.noteOff 60#8 64#8) [] ∧
    decode [0x03000940#32] = .command (.controlChange 9#8 64#8) [] ∧
    decode [0x0400BB80#32] = .command (.render 48000#16) [] ∧
    decode [0x05001A00#32] = .command (.readParam 26#8) [] ∧
    decode [0x060F0000#32] = .command (.readVoice 15#8) [] ∧
    decode [0x0F000000#32] = .command .reset [] := by decide

/-- R114, oscillator commands; the first header in bits: OP 00010111, TGT 11111111, A 0, B[0] = 1. -/
theorem test_decode_oscillator :
    decode [0b00010111111111110000000000000001#32, 0x3DCCCCCD#32, 0xBE4CCCCD#32, 0#32] =
      .command (.oscProcessMod 0xFF#8 0#8 true 0x3DCCCCCD#32 0xBE4CCCCD#32) [0#32] ∧
    decode [0x10020100#32, 0x43DC0000#32] = .command (.oscSetFreq 2#8 1#8 0x43DC0000#32) [] ∧
    decode [0x11010106#32] = .command (.oscSetWaveform 1#8 1#8 6#8) [] ∧
    decode [0x12030100#32, 0x3F000000#32] = .command (.oscSetAmp 3#8 1#8 0x3F000000#32) [] ∧
    decode [0x13030000#32, 0x3E800000#32] = .command (.oscSetPw 3#8 0#8 0x3E800000#32) [] ∧
    decode [0x14040100#32, 0x3FC90FDB#32] = .command (.oscPhaseAdd 4#8 1#8 0x3FC90FDB#32) [] ∧
    decode [0x15050100#32] = .command (.oscReset 5#8 1#8) [] ∧
    decode [0x16FF0000#32] = .command (.oscProcess 0xFF#8 0#8) [] ∧
    decode [0x18060100#32] = .command (.oscRead 6#8 1#8) [] := by decide

/-- R114, envelope commands; the first header in bits: OP 00100101, TGT 7, A 1, B[0] = 1. -/
theorem test_decode_envelope :
    decode [0b00100101000001110000000100000001#32] = .command (.envProcess 7#8 1#8 true) [] ∧
    decode [0x20000100#32, 0x3C23D70A#32] = .command (.envSetAttack 0#8 1#8 0x3C23D70A#32) [] ∧
    decode [0x21010000#32, 0x3A83126F#32] = .command (.envSetDecay 1#8 0#8 0x3A83126F#32) [] ∧
    decode [0x22020100#32, 0x3F000000#32] = .command (.envSetSustain 2#8 1#8 0x3F000000#32) [] ∧
    decode [0x23030000#32, 0x40A00000#32] = .command (.envSetRelease 3#8 0#8 0x40A00000#32) [] ∧
    decode [0x240401FE#32] = .command (.envSetGate 4#8 1#8 false) [] ∧
    decode [0x26050100#32] = .command (.envRead 5#8 1#8) [] := by decide

/-- R114, filter commands; the first header in bits: OP 00110011, TGT 2, A 1. -/
theorem test_decode_filter :
    decode [0b00110011000000100000000100000000#32, 0x3F800000#32, 0x447A0000#32] =
      .command (.fltProcessMod 2#8 1#8 0x3F800000#32 0x447A0000#32) [] ∧
    decode [0x30000000#32, 0x447A0000#32] = .command (.fltSetFreq 0#8 0#8 0x447A0000#32) [] ∧
    decode [0x31010100#32, 0x3F000000#32] = .command (.fltSetRes 1#8 1#8 0x3F000000#32) [] ∧
    decode [0x32020100#32, 0x3F800000#32] = .command (.fltProcess 2#8 1#8 0x3F800000#32) [] ∧
    decode [0x34030100#32] = .command (.fltRead 3#8 1#8) [] := by decide

/-- R114, noise commands; the first header in bits: OP 01000001, TGT 3. -/
theorem test_decode_noise :
    decode [0b01000001000000110000000000000000#32, 0xDEADBEEF#32] =
      .command (.noiseSeed 3#8 0xDEADBEEF#32) [] ∧
    decode [0x40010000#32, 0x3F800000#32] = .command (.noiseSetAmp 1#8 0x3F800000#32) [] ∧
    decode [0x42020000#32] = .command (.noiseProcess 2#8) [] ∧
    decode [0x43050000#32] = .command (.noiseRead 5#8) [] := by decide

/-- R114, voice commands; the first header in bits: OP 01010000, TGT 9, A 60, B 100. -/
theorem test_decode_voice :
    decode [0b01010000000010010011110001100100#32] = .command (.voiceNoteOn 9#8 60#8 100#8) [] ∧
    decode [0x51020000#32] = .command (.voiceNoteOff 2#8) [] ∧
    decode [0x52030000#32] = .command (.voiceProcess 3#8) [] := by decide

/-- R114 and R423: the bounds of every range of undefined opcodes. -/
theorem test_decode_undefined :
    ∀ op ∈ [0x07#8, 0x0E#8, 0x19#8, 0x1F#8, 0x27#8, 0x2F#8, 0x35#8, 0x3F#8, 0x44#8, 0x4F#8, 0x53#8, 0xFF#8],
      decode [header op 1#8 2#8 3#8, 7#32] = .undefinedOpcode op [7#32] := by decide

/-- R112 and R424: a command whose payload has not all arrived. -/
theorem test_decode_incomplete :
    decode [] = .empty ∧
    decode [0x10000000#32] = .incomplete .oscSetFreq 1 ∧
    decode [0x33000000#32, 0x3F800000#32] = .incomplete .fltProcessMod 1 ∧
    decode [0x17000000#32] = .incomplete .oscProcessMod 2 := by decide

/-- R91: a word on a byte channel, least significant byte first; a last word that is not whole waits. -/
theorem test_byte_channel :
    serialise [0x0100457F#32] = [0x7F#8, 0x45#8, 0x00#8, 0x01#8] ∧
    deserialise [0x7F#8, 0x45#8, 0x00#8, 0x01#8, 0xAA#8, 0xBB#8] = ([0x0100457F#32], [0xAA#8, 0xBB#8]) := by
  decide

/-- The table numbering: the header is the low word, and a payload word's bits count on from it. -/
theorem test_table_word :
    decodeTableWord 32 0x0100457F = some (.noteOn 69#8 127#8) ∧
    decodeTableWord 64 0x43DC000010000000 = some (.oscSetFreq 0#8 0#8 0x43DC0000#32) ∧
    decodeTableWord 96 0x447A00003F80000033020100 =
      some (.fltProcessMod 2#8 1#8 0x3F800000#32 0x447A0000#32) ∧
    decodeTableWord 32 0x33020100 = some (.fltProcessMod 2#8 1#8 0#32 0#32) ∧
    decodeTableWord 32 0x07123456 = none := by decide

/-- A table word is what the next step from reset runs. -/
theorem test_with_fetch_word :
    (stepOn (State.reset.withFetchWord 32 0x05001A00)).respOut = [0x0000007F#32, 0x3F800000#32] ∧
    (stepOn (State.reset.withFetchWord 64 0x0000000541020000)).voices[2]?.map (·.noise.state) = some 5#32 := by
  decide +kernel

/-! ## The command stream -/

/-- Vector S2: one word, nothing else. -/
theorem test_undefined_opcode :
    on two [0x07123456#32, 0xFF000000#32] =
      { two with cpos := 1, stream := [0xFF000000#32] } := by
  decide +kernel

/-- Vector S4: an incomplete final command is not performed (R424). -/
theorem test_incomplete_command :
    on two [0x10000000#32] = { two with cpos := 1, partialCmd := [0x10000000#32] } := by
  decide +kernel

/-- R424: the missing word arrives, and the command is performed. -/
theorem test_completed_command :
    first (·.osc0.inc) (stepOn ((on two [0x10000000#32]).feed [0x43DC0000#32])) = some 0x0258BF26#32 ∧
      (stepOn ((on two [0x10000000#32]).feed [0x43DC0000#32])).cpos = 2 := by
  decide +kernel

/-! ## System commands -/

/-- Vector S1: the ignored fields of NOP may be anything. -/
theorem test_nop :
    on two [0x00ABCDEF#32] = { two with cpos := 1 } := by
  decide +kernel

/-- Vector S3: RESET puts back the panel and the voices, and keeps what was emitted. -/
theorem test_reset :
    on { two with panel := two.panel.write .masterGain 0#7, lfoLast := 7#32, respOut := [9#32], cpos := 5 }
        [0x0F000000#32] = { two with respOut := [9#32], cpos := 6 } := by
  decide +kernel

/-- Vectors V1 and S5: the fields of READ_VOICE, and an invalid target. -/
theorem test_read_voice :
    resp (on two [0x5000457F#32]) [0x06000000#32] = [0x007F4593#32] ∧
      resp two [0x06FF0000#32] = [0xFFFFFFFF#32] := by
  decide +kernel

/-! ## Oscillator -/

/-- Vectors O1 to O4: 440 Hz, above Nyquist, negative, NaN. -/
theorem test_osc_set_freq :
    first (·.osc0.inc) (on two [0x10000000#32, 0x43DC0000#32]) = some 0x0258BF26#32 ∧
      first (·.osc0.inc) (on two [0x10000000#32, 0x46EA6000#32]) = some 0x80000000#32 ∧
      first (·.osc0.inc) (on two [0x10000000#32, 0xC0A00000#32]) = some 0#32 ∧
      first (·.osc0.inc) (on two [0x10000000#32, 0x7FC00000#32]) = some 0#32 := by
  decide +kernel

/-- Vector O8: code 9 is clamped to 7. -/
theorem test_osc_set_waveform :
    first (·.osc0.wave) (on two [0x11000009#32]) = some .pbSquare := by
  decide +kernel

/-- Vector O9: amplitude 1.5 and pulse width −0.2 are clamped. -/
theorem test_osc_set_amp_pw :
    first (·.osc1.amp) (on (edit two fun v => { v with osc1 := { v.osc1 with amp := 0#32 } })
        [0x12000100#32, 0x3FC00000#32]) = some 0x3F800000#32 ∧
      first (·.osc0.pw) (on two [0x13000000#32, 0xBE4CCCCD#32]) = some 0#32 := by
  decide +kernel

/-- Vectors O6 and O7: ±π/2. -/
theorem test_osc_phase_add :
    first (·.osc0.acc) (on two [0x14000000#32, 0x3FC90FDB#32]) = some 0x3FFFFFF3#32 ∧
      first (·.osc0.acc) (on two [0x14000000#32, 0xBFC90FDB#32]) = some 0xC000000D#32 := by
  decide +kernel

/-- R156: the phase alone is zeroed; the flags stay. -/
theorem test_osc_reset :
    first (·.osc0) (on (edit two fun v => { v with osc0 := { v.osc0 with acc := 9#32, inc := 5#32, eoc := true } })
        [0x15000000#32]) =
      some { voiceOscReset with inc := 5#32, eoc := true } := by
  decide +kernel

/-- Vector O5, third step, on the LFO: the sample is taken before the phase advances. -/
theorem test_osc_process :
    resp { two with lfo := { lfoReset with acc := 0x0AAAAAAA#32, inc := 0x05555555#32 } } [0x16FF0000#32] =
        [0x3E8483C9#32] ∧
      (on { two with lfo := { lfoReset with acc := 0x0AAAAAAA#32, inc := 0x05555555#32 } } [0x16FF0000#32]).lfo.acc =
        0x0FFFFFFF#32 := by
  decide +kernel

/-- R142, R150: a reset, then an advance by the frequency modulation 0.1 rad alone. -/
theorem test_osc_process_mod :
    first (·.osc0.acc) (on (edit two fun v => { v with osc0 := { v.osc0 with acc := 0x12345678#32 } })
        [0x17000001#32, 0x3DCCCCCD#32, 0x00000000#32]) = some 68356526#32 := by
  decide +kernel

/-- R152: a step from 0xC0000000 by 0x40000000 ends a cycle, one from 0x40000000 passes the half. -/
theorem test_osc_flags :
    first (·.osc0.eoc) (on (edit two fun v => { v with osc0 := { v.osc0 with acc := 0xC0000000#32, inc := 0x40000000#32 } })
        [0x16000000#32]) = some true ∧
      first (·.osc0.eor) (on (edit two fun v => { v with osc0 := { v.osc0 with acc := 0x40000000#32, inc := 0x40000000#32 } })
        [0x16000000#32]) = some true := by
  decide +kernel

/-- Program P2: the six words of OSC_READ. -/
theorem test_osc_read :
    resp (edit two fun v => { v with osc0 := { v.osc0 with acc := 0xFFFFFFF3#32, inc := 0x40000000#32, wave := .saw } })
        [0x18000000#32] =
      [0xFFFFFFF3#32, 0x40000000#32, 0x00000008#32, 0x3F800000#32, 0x3F010204#32, 0#32] := by
  decide +kernel

/-- The waveform table of 95_test_vectors.md 2.1, at increment 0x0258BF26. -/
def waveSample (w : Waveform) (pw : F32) (acc : Word) : F32 :=
  (oscStep { voiceOscReset with wave := w, pw := pw, acc := acc, inc := 0x0258BF26#32 } 0#32 0#32 false).2

/-- 95_test_vectors.md 2.1: one or two samples of each waveform. -/
theorem test_waveforms :
    waveSample .tri 0#32 0x00400000#32 = 0x3F7F0000#32 ∧
    waveSample .saw 0#32 0x40000000#32 = 0x3F000000#32 ∧
    waveSample .ramp 0#32 0xFFFFFF00#32 = 0x3F7FFFFF#32 ∧
    waveSample .square 0x3F000000#32 0x7FFFFF00#32 = 0x3F800000#32 ∧
    waveSample .square 0x3F000000#32 0x80000000#32 = 0xBF800000#32 ∧
    waveSample .pbSquare 0x3F000000#32 0x80400000#32 = 0xBE4E8F64#32 ∧
    waveSample .pbSaw 0#32 0x00400000#32 = 0x3E4C8F64#32 ∧
    waveSample .pbTri 0#32 0x40000000#32 = 0x3D6BE996#32 := by
  decide +kernel

/-! ## Envelope -/

/-- Vectors E2 and E3: the increments of 0.01 s, 0.001 s and 5 s. -/
theorem test_env_set_times :
    first (·.env0.aInc) (on two [0x20000000#32, 0x3C23D70A#32]) = some 0x3B088889#32 ∧
      first (·.env0.dInc) (on two [0x21000000#32, 0x3A83126F#32]) = some 0x3CAAAAAA#32 ∧
      first (·.env0.rInc) (on two [0x23000000#32, 0x40A00000#32]) = some 0x368BCF65#32 := by
  decide +kernel

/-- Vectors E3 and E4: 1.5 and NaN are clamped. -/
theorem test_env_set_sustain :
    first (·.env1.sus) (on two [0x22000100#32, 0x3FC00000#32]) = some 0x3F800000#32 ∧
      first (·.env1.sus) (on two [0x22000100#32, 0x7FC00000#32]) = some 0#32 := by
  decide +kernel

/-- Vectors E8 and E13: a rising gate starts the attack; a gate of 0 in IDLE does nothing. -/
theorem test_env_set_gate :
    first (fun v => (v.env0.stage, v.env0.gate)) (on two [0x24000001#32]) = some (.attack, true) ∧
      on two [0x24000000#32] = { two with cpos := 1 } := by
  decide +kernel

/-- Vector E11: from reset one tick completes the attack; R206: the release ends at +0 in IDLE. -/
theorem test_env_process :
    resp two [0x25000001#32] = [0x3F800000#32] ∧
      first (fun v => (v.env0.stage, v.env0.level))
        (on (edit two fun v => { v with env0 := { v.env0 with stage := .release, level := 0x3F000000#32 } })
          [0x25000000#32]) = some (.idle, 0#32) := by
  decide +kernel

/-- Vector E5: the six words of ENV_READ in SUSTAIN. -/
theorem test_env_read :
    resp (edit two fun v =>
        { v with env0 := { envReset with
                            stage := .sustain, gate := true, level := 0x3F000000#32
                            aInc := 0x3E800000#32, sus := 0x3F000000#32 } }) [0x26000000#32] =
      [0x0000000B#32, 0x3F000000#32, 0x3E800000#32, 0x3F800000#32, 0x3F800000#32, 0x3F000000#32] := by
  decide +kernel

/-! ## Filters -/

/-- 95_test_vectors.md 2.3: the coefficients of 1000 Hz, and the ladder's of a clamped 30000 Hz. -/
theorem test_flt_set_freq :
    first (·.ladder.g) (on two [0x30000000#32, 0x447A0000#32]) = some 0x3DED0D70#32 ∧
      first (·.svf.f) (on two [0x30000100#32, 0x447A0000#32]) = some 0x3E05F1EF#32 ∧
      first (fun v => (v.ladder.fc, v.ladder.g)) (on two [0x30000000#32, 0x46EA6000#32]) =
        some (0x46A8C000#32, 0x3F3D1D4D#32) := by
  decide +kernel

/-- 95_test_vectors.md 2.3: the feedback gain and the damping of a clamped resonance. -/
theorem test_flt_set_res :
    first (fun v => (v.ladder.res, v.ladder.k)) (on two [0x31000000#32, 0x3F800000#32]) =
        some (0x3F733333#32, 0x40733333#32) ∧
      first (fun v => (v.svf.res, v.svf.q)) (on two [0x31000100#32, 0x3F800000#32]) =
        some (0x3F733333#32, 0x3DCCCCD0#32) := by
  decide +kernel

/-- Vectors F5 and F11: an input of 100 is limited to 16, a NaN to −16. -/
theorem test_flt_process :
    resp two [0x32000000#32, 0x42C80000#32] = [0x40987A88#32] ∧
      resp two [0x32000000#32, 0x7FC00000#32] = [0xC0987A88#32] ∧
      first (fun v => (v.svf.low, v.svf.band, v.svf.high)) (on two [0x32000100#32, 0x3F800000#32]) =
        some (0#32, 0x3F4CCCCD#32, 0x3F800000#32) := by
  decide +kernel

/-- Vector F10: the cutoff of the sample alone; the stored one stays. -/
theorem test_flt_process_mod :
    first (fun v => (v.ladder.s0, v.ladder.s1, v.ladder.s2, v.ladder.s3, v.ladder.fc))
        (on two [0x33000000#32, 0x3F800000#32, 0x447A0000#32]) =
      some (0x3DED0D70#32, 0x3C5B81E2#32, 0x3ACB42C4#32, 0x393C377B#32, 0x46A8C000#32) := by
  decide +kernel

/-- Vectors F1 and F2: the ladder and the SVF at reset. -/
theorem test_flt_read :
    resp two [0x34000000#32] = [0#32, 0#32, 0#32, 0#32, 0x46A8C000#32, 0#32] ∧
      resp two [0x34000100#32] = [0#32, 0#32, 0#32, 0#32, 0x46A8C000#32, 0#32] := by
  decide +kernel

/-! ## Noise -/

/-- Vector N8: amplitude 2.0 is clamped to 1. -/
theorem test_noise_set_amp :
    first (·.noise.amp) (on two [0x40000000#32, 0x40000000#32]) = some 0x3F800000#32 := by
  decide +kernel

/-- Vectors N5 and N7: a seed, and a seed of 0. -/
theorem test_noise_seed :
    first (·.noise.state) (on two [0x41000000#32, 0xFFFFFFFF#32]) = some 0xFFFFFFFF#32 ∧
      first (·.noise.state) (on two [0x41000000#32, 0#32]) = some 1#32 := by
  decide +kernel

/-- Vectors N3 and N8: the step from state 1 with amplitude 1, and with amplitude 0. -/
theorem test_noise_process :
    resp (edit two fun v => { v with noise := { v.noise with amp := 0x3F800000#32 } }) [0x42000000#32] = [0xBF7FC000#32] ∧
      resp two [0x42000000#32] = [0x80000000#32] ∧
      first (·.noise.state) (on two [0x42000000#32]) = some 0x80200003#32 := by
  decide +kernel

/-- Vector N1 for voice 1: state 2, amplitude 0. -/
theorem test_noise_read :
    resp two [0x43010000#32] = [2#32, 0#32] := by
  decide +kernel

/-! ## Voice and voice manager -/

/-- Vector V6: both increments of note 60, and its note, velocity and gates. -/
theorem test_voice_note_on :
    first (fun v => (v.osc0.inc, v.osc1.inc)) (on two [0x50003C64#32]) = some (0x016534C5#32, 0x01654991#32) ∧
      first (fun v => (v.note, v.vel, v.fnote, v.env0.stage, v.env1.gate)) (on two [0x50003C64#32]) =
        some (60#7, 100#7, 0x4382D013#32, .attack, true) := by
  decide +kernel

/-- Vector V4: a released voice. -/
theorem test_voice_note_off :
    resp (on (on two [0x5000457F#32]) [0x51000000#32]) [0x06000000#32] = [0x007F4549#32] := by
  decide +kernel

/-- Vectors V2 and V3: the second sample of note 69, and an inactive voice. -/
theorem test_voice_process :
    resp (on (on two [0x5000457F#32]) [0x52000000#32]) [0x52000000#32] = [0x3C81D867#32] ∧
      on two [0x52010000#32] = { two with respOut := [0#32], cpos := 1 } := by
  decide +kernel

/-- Vectors M1 and M4: the first voice takes the note; note 200 and velocity 255 are clamped. -/
theorem test_note_on :
    resp (on two [0x01003C64#32]) [0x06000000#32] = [0x00643C93#32] ∧
      resp (on two [0x0100C8FF#32]) [0x06000000#32] = [0x007F7F93#32] := by
  decide +kernel

/-- Vectors M2, M3 and M7: an unmatched note, and velocity 0 as a note-off. -/
theorem test_note_off :
    resp (on (on two [0x01003C64#32]) [0x02003D00#32]) [0x06000000#32] = [0x00643C93#32] ∧
      resp (on (on two [0x01003C64#32]) [0x01003C00#32]) [0x06000000#32] = [0x00643C49#32] := by
  decide +kernel

/-- Vectors M5 and M6, and the first sample of program P1 with its phase. -/
theorem test_render :
    on two [0x04000000#32] = { two with cpos := 1 } ∧
      (on two [0x04000003#32]).audioOut = [0#32, 0#32, 0#32] ∧
      first (·.osc0.acc) (on (on two [0x0100457F#32]) [0x04000001#32]) = some 0x0258BF26#32 := by
  decide +kernel

/-! ## Parameter panel -/

/-- Vectors PN3, PN4 and PN5: a value above 127, an ID above 26, and the attack's fan-out. -/
theorem test_control_change :
    (on two [0x030009C8#32]).panel.rawOf .filterEnvAmount = 127#7 ∧
      on two [0x03001B05#32] = { two with cpos := 1 } ∧
      (on two [0x03000B7F#32]).voices.map (fun v => (v.env0.aInc, v.env1.aInc)) =
        [(0x368BCF65#32, 0x368BCF65#32), (0x368BCF65#32, 0x368BCF65#32)] := by
  decide +kernel

/-- Vector PN8: the LFO rate goes to the LFO and to no voice. -/
theorem test_control_change_lfo :
    (on two [0x0300107F#32]).lfo.inc = 0x001B4E82#32 ∧ (on two [0x0300107F#32]).voices = two.voices := by
  decide +kernel

/-- Vectors PN2 and PN4: raw and scaled, and an ID from 27 on. -/
theorem test_read_param :
    resp (on two [0x03000940#32]) [0x05000900#32] = [0x00000040#32, 0x3C010204#32] ∧
      resp two [0x05001B00#32] = [0xFFFFFFFF#32, 0#32] := by
  decide +kernel

/-! ## Witnesses: for every statement with hypotheses, a state and operands that meet them all

Each is named after its statement. -/

/-- One voice holds a note, one is inactive, and one sample is to be rendered. -/
def busy : State := (on two [0x01003C64#32]).feed [0x04000001#32]

/-- Both voices hold a note. -/
def full : State := on (on two [0x01003C64#32]) [0x01003E64#32]

/-- `OSC_PROCESS_MOD` with one of its two payload words consumed. -/
def halfway : State :=
  { two with partialCmd := [0x17000000#32, 0#32], stream := [], cpos := 2 }

theorem witness_UndefinedOpcodeIsOneWordNop :
    let s := two.feed [0x07123456#32, 0xFF000000#32]
    (s.partialCmd = [] ∧ s.stream = 0x07123456#32 :: [0xFF000000#32]) ∧
    (0x07 ≤ (0x07123456#32).toNat / 2 ^ 24 ∧ (0x07123456#32).toNat / 2 ^ 24 ≤ 0x0E) ∧
    (0x53 ≤ (0xFF000000#32).toNat / 2 ^ 24 ∧ (0xFF000000#32).toNat / 2 ^ 24 ≤ 0xFF) := by decide +kernel

/-- Each of the ranges is met at both its bounds, and the opcodes beside them are defined. -/
theorem witness_UndefinedOpcodeIsOneWordNop_bounds :
    (∀ op ∈ [0x07#8, 0x0E#8, 0x19#8, 0x1F#8, 0x27#8, 0x2F#8, 0x35#8, 0x3F#8, 0x44#8, 0x4F#8, 0x53#8, 0xFF#8],
      Op.ofByte op = none) ∧
    ∀ op ∈ [0x00#8, 0x06#8, 0x0F#8, 0x18#8, 0x20#8, 0x26#8, 0x30#8, 0x34#8, 0x40#8, 0x43#8, 0x50#8, 0x52#8],
      (Op.ofByte op).isSome = true := by decide

theorem witness_StepRunsDecodedCommand :
    (busy.partialCmd = [] ∧ decode busy.stream = .command (.render 1#16) []) ∧
    decode (halfway.partialCmd ++ (halfway.feed [1#32, 2#32]).stream) =
      .command (.oscProcessMod 0#8 0#8 false 0#32 1#32) [2#32] := by decide +kernel

theorem witness_IncompleteCommandWaits :
    halfway.partialCmd ++ halfway.stream = 0x17000000#32 :: [0#32] ∧
      Op.ofByte (opField 0x17000000#32) = some .oscProcessMod ∧ [0#32].length < Op.oscProcessMod.pay ∧
      Op.oscProcessMod.pay ≤ [0#32].length + [5#32, 6#32].length := by decide +kernel

theorem witness_GroupingOfWordsIsInvisible : pendingOk halfway = true ∧ pendingOk busy = true := by
  decide +kernel

theorem witness_CommandPositionOnlyAdvances :
    (pendingOk busy = true ∧ busy.stream ≠ [] ∧ ∃ t, step busy = .next t) ∧
    (∃ t, exec (.render 1#16) busy = .next t) ∧ pendingOk halfway = true ∧ halfway.stream = [] :=
  ⟨⟨by decide +kernel, by decide +kernel, next_of_isNext (by decide +kernel)⟩,
    next_of_isNext (by decide +kernel), by decide +kernel, rfl⟩

theorem witness_ByteChannelCarriesWords : [1#8, 2#8, 3#8].length < 4 ∧ ([] : List Byte).length < 4 := by decide

theorem witness_ResponseCountsAreFixed :
    (∃ t, exec (.render 2#16) full = .next t) ∧ ∃ t, exec (.oscRead 0xFF#8 0#8) full = .next t :=
  ⟨next_of_isNext (by decide +kernel), next_of_isNext (by decide +kernel)⟩

theorem witness_InvalidTargetChangesNothing :
    let s := two.feed [0x25000201#32]
    ((Instr.oscRead 2#8 0#8).targetValid two.nv = false ∧
      (Instr.oscRead 0xFF#8 1#8).targetValid two.nv = false ∧
      (Instr.fltRead 1#8 2#8).targetValid two.nv = false ∧
      (Instr.noiseRead 0xFF#8).targetValid two.nv = false ∧
      (Instr.voiceProcess 2#8).targetValid two.nv = false) ∧
    (s.partialCmd = [] ∧ decode s.stream = .command (.envProcess 0#8 2#8 true) [] ∧
      (Instr.envProcess 0#8 2#8 true).targetValid s.nv = false) ∧
    27 ≤ (27#8).toNat ∧ 27 ≤ (255#8).toNat := by decide +kernel

theorem witness_TargetedCommandsLeaveTheRestAlone :
    (targetOf (.oscProcess 0xFF#8 0#8) = some 0xFF#8 ∧ ∃ t, exec (.oscProcess 0xFF#8 0#8) full = .next t) ∧
    targetOf (.voiceProcess 1#8) = some 1#8 ∧ 1#8 ≠ 0xFF#8 ∧ 0 ≠ (1#8).toNat ∧
    ∃ t, exec (.voiceProcess 1#8) full = .next t :=
  ⟨⟨rfl, next_of_isNext (by decide +kernel)⟩, rfl, by decide, by decide,
    next_of_isNext (by decide +kernel)⟩

theorem witness_RoundingIsNearestEven : 0 < 1 ∧ 0 < 127 := by decide

/-- Finite operands with each further premise, NaNs, and both infinities. -/
theorem witness_ArithmeticRoundsTheExactResultOnce :
    (finite 0x3F800000#32 = true ∧ finite 0x80000000#32 = true ∧ finite 0x7F7FFFFF#32 = true) ∧
    (val 0x3F800000#32 ≠ 0 ∧ val 0x80000000#32 = 0) ∧
    (val 0x3F800000#32 + val 0xBF800000#32 = 0 ∧ val 0x80000000#32 + val 0x80000000#32 = 0) ∧
    (isInf 0x7F800000#32 = true ∧ isInf 0xFF800000#32 = true) ∧
    isNaN 0x7FC00000#32 = true ∧ isNaN 0xFFFFFFFF#32 = true := by
  have h1 : fint 0x3F800000#32 = 2 ^ 149 := by decide +kernel
  have h2 : fint 0xBF800000#32 = -2 ^ 149 := by decide +kernel
  have h3 : fint 0x80000000#32 = 0 := by decide +kernel
  refine ⟨by decide, ⟨by simp [val, h1], by simp [val, h3]⟩,
    ⟨?_, by simp [val, h3]⟩, by decide, by decide, by decide⟩
  simp only [val, h1, h2]
  norm_num

theorem witness_ComparisonsOrderValues :
    (finite 0xBF800000#32 = true ∧ finite 0x00000001#32 = true) ∧ isNaN 0x7F800001#32 = true := by decide

/-- A legal range, and a value for each clause, the bounds among them. -/
theorem witness_ClampHoldsItsRange :
    fle 0x00000000#32 0x3F800000#32 = true ∧ isNaN 0x7FC00000#32 = true ∧
    (within 0x00000000#32 0x3F800000#32 0x00000000#32 = true ∧
      within 0x00000000#32 0x3F800000#32 0x80000000#32 = true ∧
      within 0x00000000#32 0x3F800000#32 0x3F800000#32 = true) ∧
    (flt 0x80000001#32 0x00000000#32 = true ∧ flt 0x3F800000#32 0x3F800001#32 = true) ∧
    (within 0x00000000#32 0x3F800000#32 0x80000001#32 = false ∧
      within 0x00000000#32 0x3F800000#32 0x3F800001#32 = false ∧
      within 0x00000000#32 0x3F800000#32 0x7FC00000#32 = false) := by decide

/-! ### Targets: every form that R117 to R120 allow -/

theorem witness_OscAt :
    (∃ o put, OscAt two 0#8 0#8 o put) ∧ (∃ o put, OscAt two 1#8 1#8 o put) ∧
    ∃ o put, OscAt two 0xFF#8 0#8 o put :=
  ⟨exists_oscAt (by decide +kernel), exists_oscAt (by decide +kernel), exists_oscAt (by decide +kernel)⟩

theorem witness_EnvAt : (∃ e put, EnvAt two 0#8 0#8 e put) ∧ ∃ e put, EnvAt two 1#8 1#8 e put :=
  ⟨exists_envAt (by decide +kernel), exists_envAt (by decide +kernel)⟩

theorem witness_LadderAt : ∃ f put, LadderAt two 1#8 0#8 f put :=
  ⟨_, _, voiceReset 48000 1, by decide +kernel, rfl, rfl, rfl⟩

theorem witness_SvfAt : ∃ f put, SvfAt two 1#8 1#8 f put :=
  ⟨_, _, voiceReset 48000 1, by decide +kernel, rfl, rfl, rfl⟩

theorem witness_NoiseAt : ∃ n put, NoiseAt two 1#8 n put :=
  ⟨_, _, voiceReset 48000 1, by decide +kernel, rfl, rfl⟩

/-- An invalid target of each kind. -/
theorem witness_invalid_targets :
    oscTargetValid two.nv 0xFF#8 1#8 = false ∧ oscTargetValid two.nv 2#8 0#8 = false ∧
    unitTargetValid two.nv 1#8 2#8 = false ∧ unitTargetValid two.nv 2#8 0#8 = false ∧
    voiceTargetValid two.nv 2#8 = false ∧ voiceTargetValid two.nv 0xFF#8 = false := by decide +kernel

theorem witness_VoiceAt : ∃ v put, VoiceAt two 1#8 v put :=
  ⟨voiceReset 48000 1, _, by decide +kernel, rfl⟩

/-- Every clause: a NaN, a negative frequency, one above Nyquist, and 440 Hz at 48000 Hz. -/
theorem witness_OscSetFreqStoresIncrement :
    paramsOk two = true ∧ (∃ o put, OscAt two 0#8 0#8 o put) ∧ isNaN 0x7FC00000#32 = true ∧
    flt 0xC0A00000#32 0x00000000#32 = true ∧ flt (f32 two.sampleRate 2) 0x46EA6000#32 = true ∧
    two.sampleRate = 48000 :=
  ⟨by decide +kernel, witness_OscAt.1, by decide, by decide, by decide +kernel, by decide +kernel⟩

theorem witness_OscSettersClamp : ∃ o put, OscAt two 0xFF#8 0#8 o put := witness_OscAt.2.2

theorem witness_OscPhaseCommands :
    (∃ o put, OscAt two 1#8 1#8 o put) ∧ finite 0x3FC90FDB#32 = true ∧ finite 0x7F800000#32 = false :=
  ⟨witness_OscAt.2.1, by decide, by decide⟩

theorem witness_OscProcessAnswersOneStep : ∃ o put, OscAt two 0xFF#8 0#8 o put := witness_OscAt.2.2

/-- Each flag is raised by a step, and a waveform other than PB_TRI. -/
theorem witness_OscStepAdvancesPhaseAndFlags :
    2 ^ 32 ≤ ((0xC0000000#32).toNat : Int) + 0x40000000 ∧
    ((0x40000000#32).toNat < 2 ^ 31 ∧ 2 ^ 31 ≤ ((0x40000000#32).toNat : Int) + 0x40000000) ∧
    voiceOscReset.wave ≠ .pbTri := by decide

theorem witness_OscOutputIsBoundedByAmp :
    inUnit voiceOscReset.amp = true ∧ inUnit 0x00000000#32 = true ∧ inUnit 0x80000000#32 = true := by decide

theorem witness_NaiveWaveformsAreExact :
    finite 0x3F000000#32 = true ∧
    ∀ w : Waveform, w = .tri ∨ w = .saw ∨ w = .ramp ∨ w = .square →
      ({ voiceOscReset with wave := w } : Osc).wave = w := ⟨by decide, fun _ _ => rfl⟩

/-- Both ends of [0, 1], −0 and the largest pulse width among them, and both ends of the increments. -/
theorem witness_BlepCorrectionIsBounded :
    inUnit 0x00000000#32 = true ∧ inUnit 0x80000000#32 = true ∧ inUnit 0x3F800000#32 = true ∧
    (0x80000000#32).toNat ≤ 2 ^ 31 ∧ (255#32).toNat < 256 ∧ (255#32).toNat ≤ 2 ^ 31 := by decide

theorem witness_SineLookupStaysInRange : 0 < 1024 ∧ 1023 < 1024 ∧ 512 ≤ 512 ∧ 0 < 1 ∧ 511 < 512 := by decide

theorem witness_EnvSettersStoreIncrements : ∃ e put, EnvAt two 1#8 1#8 e put := witness_EnvAt.2

theorem witness_EnvGateActsOnEdges : ∃ e put, EnvAt two 0#8 0#8 e put := witness_EnvAt.1

/-- Every stage is that of an envelope that a command can address. -/
theorem witness_EnvProcessTicksOnce :
    ∀ st : Stage, ∃ e put,
      EnvAt (edit two fun v => { v with env0 := { v.env0 with stage := st } }) 0#8 0#8 e put ∧ e.stage = st := by
  intro st
  exact ⟨{ envReset with stage := st }, _, ⟨_, rfl, .inl ⟨rfl, rfl, rfl⟩⟩, rfl⟩

theorem witness_FltSettersStoreCoefficients :
    paramsOk two = true ∧ (∃ f put, LadderAt two 1#8 0#8 f put) ∧ ∃ f put, SvfAt two 1#8 1#8 f put :=
  ⟨by decide +kernel, witness_LadderAt, witness_SvfAt⟩

theorem witness_FltProcessRunsOneStep :
    (∃ f put, LadderAt two 1#8 0#8 f put) ∧ ∃ f put, SvfAt two 1#8 1#8 f put :=
  ⟨witness_LadderAt, witness_SvfAt⟩

theorem witness_CoefficientsStayInRange :
    (8000 ≤ 8000 ∧ 8000 ≤ 192000) ∧ 8000 ≤ 192000 ∧ 192000 ≤ 192000 := by decide

theorem witness_NoiseCommandsActOnTheirUnit : ∃ n put, NoiseAt two 1#8 n put := witness_NoiseAt

theorem witness_LfsrStepIsInvertible : 1#32 ≠ 0#32 := by decide

theorem witness_UnitReadbackWords :
    (∃ o put, OscAt two 0xFF#8 0#8 o put) ∧ (∃ e put, EnvAt two 1#8 1#8 e put) ∧
    (∃ f put, LadderAt two 1#8 0#8 f put) ∧ (∃ f put, SvfAt two 1#8 1#8 f put) ∧
    ∃ n put, NoiseAt two 1#8 n put :=
  ⟨witness_OscAt.2.2, witness_EnvAt.2, witness_LadderAt, witness_SvfAt, witness_NoiseAt⟩

theorem witness_NopAndReadVoice : ∃ v put, VoiceAt two 1#8 v put := witness_VoiceAt

theorem witness_VoiceNotesSetPitchAndGate : ∃ v put, VoiceAt two 1#8 v put := witness_VoiceAt

/-- An inactive voice and an active one, with every switch of the path on and off. -/
theorem witness_VoiceProcessRunsTheSignalPath :
    (∃ v put, VoiceAt two 1#8 v put) ∧ (voiceReset 48000 0).env0.stage = .idle ∧
    first (·.env0.stage) busy ≠ some .idle ∧ 64 ≤ (64#7).toNat ∧ ¬ 64 ≤ (63#7).toNat :=
  ⟨witness_VoiceAt, rfl, by decide +kernel, by decide, by decide⟩

/-- All three voice states, each of an envelope in range; and a command that is no lifecycle command. -/
theorem witness_VoiceLifecycle :
    (∃ v put, VoiceAt two 1#8 v put ∧ envOk v.env0 = true) ∧
    (first (fun v => (envOk v.env0, vstate v)) two = some (true, .inactive) ∧
      first (fun v => (envOk v.env0, vstate v)) full = some (true, .held) ∧
      first (fun v => (envOk v.env0, vstate v)) (on full [0x02003C00#32]) = some (true, .released)) ∧
    actsOnLifecycle (.oscProcess 0#8 0#8) = false ∧ (∃ t, exec (.oscProcess 0#8 0#8) full = .next t) ∧
    ∃ v, full.voices[1]? = some v :=
  ⟨⟨voiceReset 48000 1, _, ⟨by decide +kernel, rfl⟩, by decide +kernel⟩, by decide +kernel, rfl,
    next_of_isNext (by decide +kernel), exists_voice_of_lt (by decide +kernel)⟩

/-- No inactive voice; and the second voice the first inactive one. -/
theorem witness_NoteOnTakesTheFirstInactiveVoice :
    (100#8 ≠ 0#8 ∧ ∀ v ∈ full.voices, active v = true) ∧
    busy.voices[1]? = some (voiceReset 48000 1) ∧ active (voiceReset 48000 1) = false ∧
    (∀ j < 1, ∀ u, busy.voices[j]? = some u → active u = true) ∧ 1 < 256 := by
  refine ⟨by decide +kernel, by decide +kernel, by decide +kernel, ?_, by decide⟩
  intro j hj u hu
  have h : ∀ v ∈ busy.voices.take 1, active v = true := by decide +kernel
  refine h u ?_
  obtain ⟨hl, rfl⟩ := List.getElem?_eq_some_iff.mp hu
  exact List.mem_take_iff_getElem.mpr ⟨j, by omega, rfl⟩

/-- A voice that holds the note, one that holds another, and an inactive one. -/
theorem witness_NoteOffReleasesEveryHolder :
    full.voices.map (fun v => (v.env0.stage, v.note)) = [(.attack, 60#7), (.attack, 62#7)] ∧
    two.voices.map (·.env0.stage) = [.idle, .idle] := by decide +kernel

theorem witness_PoolExhaustionDropsTheLastNote :
    let notes : List (Byte × Byte) := [(60#8, 100#8), (200#8, 255#8), (64#8, 1#8)]
    (∀ v ∈ two.voices, envOk v.env0 = true ∧ envOk v.env1 = true) ∧
    (∀ v ∈ two.voices, active v = false) ∧ notes.length = two.voices.length + 1 ∧
    ∀ p ∈ notes, p.2 ≠ 0#8 :=
  ⟨by decide +kernel, by decide +kernel, by decide +kernel, by simp⟩

theorem witness_RenderTicksAndMixes :
    1#16 ≠ 0#16 ∧ 0xFFFF#16 ≠ 0#16 ∧ ∃ t v x, exec (.render 1#16) full = .next t ∧
      full.voices[0]? = some v ∧ t.voices[0]? = some x := by
  refine ⟨by decide, by decide, renderSamples 1 full, ?_⟩
  obtain ⟨v, hv⟩ := exists_voice_of_lt (s := full) (v := 0) (by decide +kernel)
  obtain ⟨x, hx⟩ := exists_voice_of_lt (s := renderSamples 1 full) (v := 0) (by decide +kernel)
  exact ⟨v, x, rfl, hv, hx⟩

theorem witness_RenderBlocksAreInvisible :
    (0xFFFF#16).toNat + (0#16).toNat < 2 ^ 16 ∧ (0x8000#16).toNat + (0x7FFF#16).toNat < 2 ^ 16 := by decide

theorem witness_BlockFormsEqualPerSampleCommands :
    (∃ o put, OscAt two 0xFF#8 0#8 o put) ∧ (∃ e put, EnvAt two 1#8 1#8 e put) ∧
    (∃ f put, LadderAt two 1#8 0#8 f put) ∧ ∃ f put, SvfAt two 1#8 1#8 f put :=
  ⟨witness_OscAt.2.2, witness_EnvAt.2, witness_LadderAt, witness_SvfAt⟩

/-- The least ID that is ignored, the greatest that is not, and every parameter by its ID. -/
theorem witness_ControlChangeFansOut :
    27 ≤ (27#8).toNat ∧ (Param.masterGain.id : Nat) = (26#8).toNat ∧
    ∀ p : Param, ∃ id : Byte, (p.id : Nat) = id.toNat :=
  ⟨by decide, by decide, fun p => ⟨BitVec.ofNat 8 p.id, by cases p <;> decide⟩⟩

theorem witness_ReadParamReturnsWhatWasWritten :
    (Param.masterGain.id : Nat) = (26#8).toNat ∧ 27 ≤ (27#8).toNat ∧ (127#8).toNat ≤ 127 := by decide

theorem witness_ScalingRoundsTheFormulaOnce :
    scale .filterEnvAmount 0#7 = 0xBF800000#32 ∧ scale .pulseWidth 0#7 = 0x00000000#32 ∧
    scale .detuneCoarse 64#7 = 0x00000000#32 := by decide +kernel

/-! ### Invariants: the reset state and a state with a note held -/

theorem witness_ResetMeetsTheInvariants :
    Config.legal { sampleRate := 192000, numVoices := 255 } = true ∧
    Config.legal { sampleRate := 8000, numVoices := 1 } = true := by decide

theorem witness_step_busy : ∃ t, step busy = .next t := next_of_isNext (by decide +kernel)

theorem witness_StepKeepsTheParameters : ∃ t, step busy = .next t := witness_step_busy

theorem witness_StepKeepsPanelConsistent : PanelOk busy ∧ ∃ t, step busy = .next t :=
  ⟨fun p => by cases p <;> decide +kernel, witness_step_busy⟩

theorem witness_StepKeepsOscillatorsInRange :
    paramsOk busy = true ∧ OscsOk busy ∧ ∃ t, step busy = .next t :=
  ⟨by decide +kernel, ⟨by decide +kernel, by decide +kernel⟩, witness_step_busy⟩

theorem witness_StepKeepsIntegratorsBounded :
    paramsOk busy = true ∧ OscsOk busy ∧ IntegratorsOk busy ∧ ∃ t, step busy = .next t :=
  ⟨by decide +kernel, ⟨by decide +kernel, by decide +kernel⟩, ⟨by decide +kernel, by decide +kernel⟩,
    witness_step_busy⟩

theorem envs_busy : ∀ v ∈ busy.voices, envOk v.env0 = true ∧ envOk v.env1 = true := by decide +kernel

theorem witness_StepKeepsEnvelopesInRange :
    paramsOk busy = true ∧ EnvsOk busy ∧ ∃ t, step busy = .next t :=
  ⟨by decide +kernel, envs_busy, witness_step_busy⟩

theorem filters_busy :
    ∀ v ∈ busy.voices, ladderOk busy.sampleRate v.ladder = true ∧ svfOk busy.sampleRate v.svf = true := by
  decide +kernel

theorem witness_StepKeepsFiltersInRange :
    paramsOk busy = true ∧ FiltersOk busy ∧ ∃ t, step busy = .next t :=
  ⟨by decide +kernel, filters_busy, witness_step_busy⟩

theorem noises_busy : ∀ v ∈ busy.voices, noiseOk v.noise = true := by decide +kernel

theorem witness_StepKeepsNoiseAlive :
    paramsOk busy = true ∧ NoisesOk busy ∧ ∃ t, step busy = .next t :=
  ⟨by decide +kernel, noises_busy, witness_step_busy⟩

theorem witness_StepKeepsSignalsFinite :
    OscsOk busy ∧ SignalsOk busy ∧ ∃ t, step busy = .next t :=
  ⟨⟨by decide +kernel, by decide +kernel⟩, ⟨by decide +kernel, by decide +kernel⟩, witness_step_busy⟩

theorem witness_StepKeepsPendingUnfinished : ∃ t, step busy = .next t := witness_step_busy

end Sys2Proof.Tests
end

section
/-! Every step keeps the parameters (R6): the frame of `exec` on the sample rate and the number of voices. -/

namespace Sys2Proof.Machine

/-! ## The parameters after each shared operation -/

@[simp] theorem State.respond_config (s : State) (ws : List Word) : (s.respond ws).config = s.config := rfl

@[simp] theorem State.consumeTo_config (s : State) (rest : List Word) :
    (s.consumeTo rest).config = s.config := rfl

@[simp] theorem State.holdPartial_config (s : State) : s.holdPartial.config = s.config := rfl

@[simp] theorem onVoice_config (s : State) (op : Op) (tgt : Byte) (f : Voice → Voice × List Word) :
    (onVoice s op tgt f).config = s.config := by simp [State.config]

@[simp] theorem onNoise_config (s : State) (op : Op) (tgt : Byte) (f : Noise → Noise × List Word) :
    (onNoise s op tgt f).config = s.config := by simp [State.config]

@[simp] theorem onEnv_config (s : State) (op : Op) (tgt a : Byte) (f : Env → Env × List Word) :
    (onEnv s op tgt a f).config = s.config := by simp [State.config]

@[simp] theorem onFilter_config (s : State) (op : Op) (tgt a : Byte) (fl : Ladder → Ladder × List Word)
    (fs : Svf → Svf × List Word) : (onFilter s op tgt a fl fs).config = s.config := by simp [State.config]

@[simp] theorem onOsc_config (s : State) (op : Op) (tgt a : Byte) (f : Osc → Osc × List Word) :
    (onOsc s op tgt a f).config = s.config := by simp [State.config]

@[simp] theorem renderSamples_config (n : Nat) (s : State) : (renderSamples n s).config = s.config := by
  simp [State.config]

@[simp] theorem setParam_config (s : State) (p : Param) (r : Raw) : (setParam s p r).config = s.config := by
  simp only [State.config, setParam_nv]
  rfl

/-- Replacing the voices by as many keeps the parameters. -/
theorem config_with_voices (s : State) {vs : List Voice} (h : vs.length = s.voices.length) :
    ({ s with voices := vs } : State).config = s.config := by
  simp [State.config, State.nv, h]

/-- Power-on with given parameters has those parameters. -/
theorem State.resetFor_config (c : Config) : (State.resetFor c).config = c := by
  simp [State.config, State.nv, State.resetFor, voicesReset]

/-! ## The parameters after a command and after a step -/

/-- No command changes the sample rate or the number of voices. -/
theorem exec_config (i : Instr) (s : State) {t : State} (h : exec i s = .next t) : t.config = s.config := by
  cases i with
  | nop => cases h; rfl
  | noteOn note vel =>
    simp only [exec, execNoteOn] at h
    split at h <;> cases h
    · exact config_with_voices s (releaseNote_length _ _)
    · exact config_with_voices s (onFirstInactive_length _ _)
  | noteOff note vel => cases h; exact config_with_voices s (releaseNote_length _ _)
  | controlChange id value =>
    simp only [exec, execControlChange] at h
    split at h <;> cases h
    · rfl
    · exact setParam_config _ _ _
  | render count => cases h; exact renderSamples_config _ _
  | readParam id =>
    simp only [exec, execReadParam] at h
    split at h <;> cases h <;> exact State.respond_config _ _
  | reset => cases h; exact State.resetFor_config s.config
  | oscSetFreq | oscSetWaveform | oscSetAmp | oscSetPw | oscPhaseAdd | oscReset | oscProcess
  | oscProcessMod | oscRead => cases h; exact onOsc_config _ _ _ _ _
  | envSetAttack | envSetDecay | envSetSustain | envSetRelease | envSetGate | envProcess
  | envRead => cases h; exact onEnv_config _ _ _ _ _
  | fltSetFreq | fltSetRes | fltProcess | fltProcessMod | fltRead =>
    cases h; exact onFilter_config _ _ _ _ _ _
  | noiseSetAmp | noiseSeed | noiseProcess | noiseRead => cases h; exact onNoise_config _ _ _ _
  | readVoice | voiceNoteOn | voiceNoteOff | voiceProcess => cases h; exact onVoice_config _ _ _ _

/-- Taking a command changes no parameter. -/
theorem fetch_config (s : State) :
    (∀ t, fetch s = .skipped t → t.config = s.config) ∧
      ∀ i t, fetch s = .command i t → t.config = s.config := by
  constructor
  · intro t h
    unfold fetch at h
    split at h <;> cases h
    · exact State.consumeTo_config s _
    · exact State.holdPartial_config s
  · intro i t h
    unfold fetch at h
    split at h <;> cases h
    exact State.consumeTo_config s _

/-- Settles O52: a step is an idle step, a fetch that runs nothing, or a fetch and a command, and each
keeps the parameters. -/
theorem stepKeepsTheParameters : Obligations.StepKeepsTheParameters := by
  intro s t h
  obtain ⟨hskip, hcmd⟩ := fetch_config s
  unfold step at h
  split at h
  next => cases h; rfl
  next u hf => cases h; exact hskip _ hf
  next i u hf => exact (exec_config i u h).trans (hcmd i u hf)

end Sys2Proof.Machine
end

section
/-! Rounding to nearest (R9): a rounded pattern lies on its side of every midpoint between it and another
pattern, so no binary32 is nearer. -/

namespace Sys2Proof.Machine

open Sys2Proof.Safety

/-! ## Midpoints between magnitudes -/

/-- The magnitude of a pattern in the form `rawUnits` builds it, a carry out of the significand included. -/
theorem patMag_binade {j m : Nat} (hm : m ≤ 2 ^ 24) (hj : j = 0 ∨ 2 ^ 23 ≤ m) :
    patMag (j * 2 ^ 23 + m) = m * 2 ^ j := by
  unfold patMag
  by_cases hlt : m < 2 ^ 23
  · obtain rfl : j = 0 := hj.resolve_right (by omega)
    rw [if_pos (by omega)]
    simp
  · rw [if_neg (by omega)]
    by_cases hc : m = 2 ^ 24
    · have e1 : (j * 2 ^ 23 + m) / 2 ^ 23 - 1 = j + 1 := by omega
      have e2 : (j * 2 ^ 23 + m) % 2 ^ 23 = 0 := by omega
      rw [e1, e2, hc]
      ring
    · have e1 : (j * 2 ^ 23 + m) / 2 ^ 23 - 1 = j := by omega
      have e2 : 2 ^ 23 + (j * 2 ^ 23 + m) % 2 ^ 23 = m := by omega
      rw [e1, e2]

/-- How `rawUnits` builds a pattern: a binade `j`, and a significand `m` that is the quotient in units of
`2^j` rounded to nearest, ties to even. -/
theorem rawUnits_parts (a : Nat) {b : Nat} (hb : 0 < b) :
    ∃ j m, rawUnits a b = j * 2 ^ 23 + m ∧ m ≤ 2 ^ 24 ∧ (j = 0 ∨ 2 ^ 23 ≤ m) ∧
      a < 2 ^ 24 * 2 ^ j * b ∧ (0 < j → 2 ^ 23 * 2 ^ j * b ≤ a) ∧
      2 * a ≤ (2 * m + 1) * (b * 2 ^ j) ∧ 2 * m * (b * 2 ^ j) ≤ 2 * a + b * 2 ^ j ∧
      (2 * a = (2 * m + 1) * (b * 2 ^ j) ∨ 2 * m * (b * 2 ^ j) = 2 * a + b * 2 ^ j → m % 2 = 0) := by
  obtain ⟨hlt, hge⟩ := binade_bounds a hb
  generalize hj : Nat.log2 (a / b) - 23 = j at hlt hge
  rw [pow_add, mul_comm (2 ^ j)] at hlt hge
  have hpos : 0 < b * 2 ^ j := Nat.mul_pos hb (Nat.two_pow_pos j)
  refine ⟨j, rneDiv a (b * 2 ^ j), by rw [rawUnits, hj], ?_, ?_, hlt, hge, rneDiv_spec a hpos⟩
  · refine rneDiv_le hpos ?_
    linarith
  · refine j.eq_zero_or_pos.imp_right fun h => le_rneDiv hpos ?_
    linarith [hge h]

/-- A quotient is at most half way from its pattern to any larger one, and half way only to an even one. -/
theorem rawUnits_midpoint_above (a : Nat) {b r : Nat} (hb : 0 < b) (h : rawUnits a b < r) :
    2 * a ≤ (patMag (rawUnits a b) + patMag r) * b ∧
      (2 * a = (patMag (rawUnits a b) + patMag r) * b → rawUnits a b % 2 = 0) := by
  obtain ⟨j, m, hp, hm, hj, hlt, -, hab, -, htie⟩ := rawUnits_parts a hb
  have hr : patMag (j * 2 ^ 23 + m + 1) ≤ patMag r := patMag_strictMono.monotone (by omega)
  rw [hp, patMag_binade hm hj]
  by_cases hc : m = 2 ^ 24
  · -- the significand carried: the quotient is below the pattern itself
    have hmr : m * 2 ^ j < patMag r := by
      rw [← patMag_binade hm hj]
      exact (patMag_succ_lt _).trans_le hr
    subst hc
    have : 2 ^ 24 * 2 ^ j * b ≤ patMag r * b := Nat.mul_le_mul_right b hmr.le
    constructor
    · linarith
    · intro; linarith
  · rw [add_assoc, patMag_binade (by omega) (by omega)] at hr
    have hrb : (m + 1) * 2 ^ j * b ≤ patMag r * b := Nat.mul_le_mul_right b hr
    constructor
    · linarith
    · intro heq
      have := htie (.inl (by linarith))
      omega

/-- A quotient is at least half way from any smaller pattern to its own, and half way only from an even one. -/
theorem rawUnits_midpoint_below (a : Nat) {b r : Nat} (hb : 0 < b) (h : r < rawUnits a b) :
    (patMag r + patMag (rawUnits a b)) * b ≤ 2 * a ∧
      ((patMag r + patMag (rawUnits a b)) * b = 2 * a → rawUnits a b % 2 = 0) := by
  obtain ⟨j, m, hp, hm, hj, -, hge, -, hab, htie⟩ := rawUnits_parts a hb
  rw [hp] at h ⊢
  have hmag := patMag_binade hm hj
  by_cases hc : 0 < j ∧ m = 2 ^ 23
  · -- the least significand of its binade: the quotient is not below the pattern itself
    have hrm : patMag r < m * 2 ^ j := hmag ▸ patMag_strictMono h
    obtain ⟨h0, rfl⟩ := hc
    have := hge h0
    have : patMag r * b < 2 ^ 23 * 2 ^ j * b := Nat.mul_lt_mul_of_pos_right hrm hb
    rw [hmag]
    constructor
    · linarith
    · intro; linarith
  · obtain ⟨k, rfl⟩ : ∃ k, m = k + 1 := ⟨m - 1, by omega⟩
    have hr : patMag r ≤ k * 2 ^ j := by
      rw [← patMag_binade (j := j) (m := k) (by omega) (by omega)]
      exact patMag_strictMono.monotone (by omega)
    have hrb : patMag r * b ≤ k * 2 ^ j * b := Nat.mul_le_mul_right b hr
    rw [hmag]
    constructor
    · linarith
    · intro heq
      have := htie (.inr (by linarith))
      omega

/-! ## Overflow -/

/-- `overflowBound` in units of 2^-149. -/
def overflowUnits : Nat := (2 ^ 25 - 1) * 2 ^ 252

theorem overflowUnits_midpoint : patMag 0x7F7FFFFF + patMag 0x7F800000 = 2 * overflowUnits := by decide

theorem overflowBound_eq : overflowBound = overflowUnits / 2 ^ 149 := by
  norm_num [overflowBound, overflowUnits]

/-- A quotient has a finite pattern exactly when it is below the overflow bound. -/
theorem rawUnits_lt_inf_iff (a : Nat) {b : Nat} (hb : 0 < b) :
    rawUnits a b < 0x7F800000 ↔ a < overflowUnits * b := by
  have hmid : (patMag 0x7F7FFFFF + patMag 0x7F800000) * b = 2 * (overflowUnits * b) := by
    rw [overflowUnits_midpoint, mul_assoc]
  constructor
  · intro hp
    obtain ⟨hle, htie⟩ := rawUnits_midpoint_above a hb hp
    obtain heq | hlt := (show rawUnits a b ≤ 0x7F7FFFFF by omega).eq_or_lt
    · rw [heq] at hle htie
      omega
    · have : patMag (rawUnits a b) * b < patMag 0x7F7FFFFF * b :=
        Nat.mul_lt_mul_of_pos_right (patMag_strictMono hlt) hb
      linarith
  · intro ha
    by_contra hp
    have hle := (rawUnits_midpoint_below a hb (r := 0x7F7FFFFF) (by omega)).1
    have : patMag 0x7F800000 * b ≤ patMag (rawUnits a b) * b :=
      Nat.mul_le_mul_right b (patMag_strictMono.monotone (by omega))
    linarith

/-! ## The exact value of a pattern -/

theorem val_fneg (x : F32) : val (fneg x) = -val x := by
  simp [val, fint_fneg, neg_div]

theorem val_lt_iff (x y : F32) : val x < val y ↔ fint x < fint y := by
  rw [val, val, div_lt_div_iff_of_pos_right (by positivity), Int.cast_lt]

theorem val_le_iff (x y : F32) : val x ≤ val y ↔ fint x ≤ fint y := by
  rw [val, val, div_le_div_iff_of_pos_right (by positivity), Int.cast_le]

theorem fint_eq_zero_iff (x : F32) : fint x = 0 ↔ fmag x = 0 := by
  rw [← natAbs_fint, Int.natAbs_eq_zero]

theorem val_eq_zero_iff (x : F32) : val x = 0 ↔ fint x = 0 := by
  simp [val]

/-- A value is its magnitude with its sign. -/
theorem val_eq (x : F32) :
    val x = if fsign x then -((fmag x : ℚ) / 2 ^ 149) else (fmag x : ℚ) / 2 ^ 149 := by
  unfold val fint
  split <;> push_cast <;> ring

theorem fneg_fneg (x : F32) : fneg (fneg x) = x := by
  simp [fneg]

theorem fneg_pack_false {m : Nat} (h : m < 2 ^ 31) : fneg (pack false m) = pack true m := by
  rw [← pack_parts (fneg (pack false m)), fsign_fneg, fpat_fneg, fsign_pack _ h, fpat_pack _ h]
  rfl

theorem fint_pack_false {m : Nat} (h : m < 2 ^ 31) : fint (pack false m) = patMag m := by
  simp [fint, fsign_pack _ h, fmag_eq, fpat_pack _ h]

/-- A pattern is even exactly when its bit 0 is. -/
theorem getLsbD_zero_pack_false {m : Nat} (h : m % 2 = 0) : (pack false m).getLsbD 0 = false := by
  rw [pack, if_neg (by decide), BitVec.getLsbD_ofNat, Nat.testBit_zero, h]
  rfl

/-! ## A rounded quotient is the nearest binary32 -/

/-- The midpoints of `rawUnits` against every pattern, the negative ones included. -/
theorem rawUnits_midpoint (a : Nat) {b : Nat} (hb : 0 < b) (y : F32) :
    ((patMag (rawUnits a b) : ℤ) < fint y → 2 * (a : ℤ) ≤ (patMag (rawUnits a b) + fint y) * b) ∧
    (fint y < patMag (rawUnits a b) → (patMag (rawUnits a b) + fint y) * b ≤ 2 * (a : ℤ)) ∧
    ((patMag (rawUnits a b) : ℤ) ≠ fint y → 2 * (a : ℤ) = (patMag (rawUnits a b) + fint y) * b →
      rawUnits a b % 2 = 0) := by
  cases hs : fsign y
  case false =>
    have hy : fint y = patMag (fpat y) := by simp [fint, hs, fmag_eq]
    rw [hy]
    norm_cast
    obtain hlt | heq | hgt := lt_trichotomy (rawUnits a b) (fpat y)
    · obtain ⟨hle, htie⟩ := rawUnits_midpoint_above a hb hlt
      exact ⟨fun _ => hle, fun h => absurd (patMag_strictMono hlt) h.asymm, fun _ => htie⟩
    · simp [heq]
    · obtain ⟨hle, htie⟩ := rawUnits_midpoint_below a hb hgt
      rw [add_comm] at hle htie
      exact ⟨fun h => absurd (patMag_strictMono hgt) h.asymm, fun _ => hle, fun _ h => htie h.symm⟩
  case true =>
    have hy : fint y ≤ 0 := by simp [fint, hs]
    have hyb : fint y * (b : ℤ) ≤ 0 := mul_nonpos_of_nonpos_of_nonneg hy (by positivity)
    obtain h0 | hpos := (rawUnits a b).eq_zero_or_pos
    · rw [h0, patMag_zero, Nat.cast_zero, zero_add]
      exact ⟨fun h => absurd hy h.not_ge, fun _ => by omega, fun _ _ => rfl⟩
    · obtain ⟨hle, htie⟩ := rawUnits_midpoint_below a hb hpos
      rw [patMag_zero, zero_add] at hle htie
      zify at hle htie
      rw [add_mul]
      exact ⟨fun h => by omega, fun _ => by omega,
        fun _ h => by exact_mod_cast htie (by omega)⟩

/-- A value on the right side of its midpoint with another is the nearer, or they tie at the midpoint. -/
theorem nearer_of_midpoint {q v w : ℚ} (hlt : v < w → 2 * q ≤ v + w) (hgt : w < v → v + w ≤ 2 * q) :
    |q - v| ≤ |q - w| ∧ (|q - v| = |q - w| → v ≠ w → 2 * q = v + w) := by
  have hdiff : (q - w) ^ 2 - (q - v) ^ 2 = (v - w) * (2 * q - (v + w)) := by ring
  constructor
  · rw [← sq_le_sq, ← sub_nonneg, hdiff]
    obtain h | rfl | h := lt_trichotomy v w
    · exact mul_nonneg_of_nonpos_of_nonpos (by linarith) (by linarith [hlt h])
    · simp
    · exact mul_nonneg (by linarith) (by linarith [hgt h])
  · intro heq hne
    rw [← sq_eq_sq_iff_abs_eq_abs] at heq
    rw [heq, sub_self, zero_eq_mul] at hdiff
    exact sub_eq_zero.mp (hdiff.resolve_left (sub_ne_zero.mpr hne))

/-- A quotient that does not overflow is rounded to the nearest binary32, ties to the even pattern. -/
theorem roundUnits_nearest (a : Nat) {b : Nat} (hb : 0 < b) (hlt : rawUnits a b < 0x7F800000) (y : F32) :
    |(a / b / 2 ^ 149 : ℚ) - val (pack false (roundUnits a b))| ≤ |(a / b / 2 ^ 149 : ℚ) - val y| ∧
      (|(a / b / 2 ^ 149 : ℚ) - val (pack false (roundUnits a b))| = |(a / b / 2 ^ 149 : ℚ) - val y| →
        val (pack false (roundUnits a b)) ≠ val y → (pack false (roundUnits a b)).getLsbD 0 = false) := by
  have hr : roundUnits a b = rawUnits a b := min_eq_right hlt.le
  rw [hr]
  have hx : fint (pack false (rawUnits a b)) = patMag (rawUnits a b) := fint_pack_false (by omega)
  obtain ⟨habove, hbelow, htie⟩ := rawUnits_midpoint a hb y
  rw [← hx] at habove hbelow htie
  have hpar := getLsbD_zero_pack_false (m := rawUnits a b)
  generalize pack false (rawUnits a b) = x at *
  -- twice the quotient and the sum of the two values over one denominator
  have hpos : (0 : ℚ) < b * 2 ^ 149 := by positivity
  have hq : 2 * (a / b / 2 ^ 149 : ℚ) = ((2 * (a : ℤ) : ℤ) : ℚ) / (b * 2 ^ 149) := by
    push_cast
    field_simp
  have hv : val x + val y = (((fint x + fint y) * b : ℤ) : ℚ) / (b * 2 ^ 149) := by
    unfold val
    push_cast
    field_simp
  have hmid := nearer_of_midpoint (q := a / b / 2 ^ 149) (v := val x) (w := val y)
  rw [hq, hv, div_le_div_iff_of_pos_right hpos, div_le_div_iff_of_pos_right hpos, div_left_inj' hpos.ne',
    Int.cast_le, Int.cast_le, Int.cast_inj, val_lt_iff, val_lt_iff] at hmid
  obtain ⟨hle, heq⟩ := hmid habove hbelow
  exact ⟨hle, fun h hne => hpar (htie (fun h' => hne (by simp [val, h'])) (heq h hne))⟩

/-- A quotient overflows exactly from `overflowBound` on. -/
theorem quotient_lt_overflowBound_iff (a : Nat) {b : Nat} (hb : 0 < b) :
    (a / b / 2 ^ 149 : ℚ) < overflowBound ↔ rawUnits a b < 0x7F800000 := by
  rw [rawUnits_lt_inf_iff a hb, overflowBound_eq, div_lt_div_iff_of_pos_right (by positivity),
    div_lt_iff₀ (by positivity)]
  norm_cast

theorem finite_pack {m : Nat} (neg : Bool) (h : m < 0x7F800000) : finite (pack neg m) = true := by
  rw [finite_iff_fpat, fpat_pack neg (by omega)]
  exact h

/-! ## `RoundsTo` -/

theorem roundsTo_pack_false (a : Nat) {b : Nat} (hb : 0 < b) :
    RoundsTo (a / b / 2 ^ 149) (pack false (roundUnits a b)) := by
  have hq : (0 : ℚ) ≤ a / b / 2 ^ 149 := by positivity
  have hov := quotient_lt_overflowBound_iff a hb
  refine ⟨fun hlt => ?_, fun hge => ?_, fun hneg => ?_⟩
  · rw [abs_of_nonneg hq, hov] at hlt
    exact ⟨finite_pack _ (by rw [roundUnits_eq]; omega), fun y _ => roundUnits_nearest a hb hlt y⟩
  · rw [← not_lt, hov, not_lt] at hge
    rw [roundUnits_eq, min_eq_left hge]
    rfl
  · have : (0 : ℚ) < overflowBound := by norm_num [overflowBound]
    linarith

/-- Rounding is symmetric in the sign. -/
theorem roundsTo_neg {q : ℚ} {x : F32} (h : RoundsTo q x) : RoundsTo (-q) (fneg x) := by
  obtain ⟨hfin, hpos, hneg⟩ := h
  refine ⟨fun hlt => ?_, fun hge => ?_, fun hle => ?_⟩
  · rw [abs_neg] at hlt
    obtain ⟨hx, hnear⟩ := hfin hlt
    refine ⟨by rw [finite_fneg, hx], fun y hy => ?_⟩
    have hsymm : ∀ z, |-q - z| = |q - -z| := fun z => by rw [← abs_neg]; congr 1; ring
    have hbit : (fneg x).getLsbD 0 = x.getLsbD 0 := by simp [fneg]
    have hy' := hnear (fneg y) (by rwa [finite_fneg])
    rw [val_fneg] at hy'
    rw [val_fneg, hsymm, hsymm, neg_neg, hbit]
    exact ⟨hy'.1, fun he hne => hy'.2 he fun h => hne (by rw [h, neg_neg])⟩
  · rw [hneg (by linarith)]
    rfl
  · rw [hpos (by linarith)]
    rfl

/-- A magnitude rounded once and given a sign is the signed value rounded once. -/
theorem roundsTo_pack (neg : Bool) (a : Nat) {b : Nat} (hb : 0 < b) :
    RoundsTo (if neg then -(a / b / 2 ^ 149) else a / b / 2 ^ 149) (pack neg (roundUnits a b)) := by
  cases neg
  · exact roundsTo_pack_false a hb
  · rw [if_pos rfl, ← fneg_pack_false (roundUnits_lt a b)]
    exact roundsTo_neg (roundsTo_pack_false a hb)

/-- A signed quotient of units rounded once, whichever sign a zero takes. -/
theorem roundsTo_pack_int {neg : Bool} {n : ℤ} {d : Nat} (hd : 0 < d) (hs : n ≠ 0 → neg = decide (n < 0)) :
    RoundsTo (n / d / 2 ^ 149) (pack neg (roundUnits n.natAbs d)) := by
  have h := roundsTo_pack neg n.natAbs hd
  have habs : ((n.natAbs : ℕ) : ℚ) = |(n : ℚ)| := by rw [Nat.cast_natAbs, Int.cast_abs]
  rw [habs] at h
  by_cases h0 : n = 0
  · subst h0
    cases neg <;> simpa using h
  · obtain rfl := hs h0
    by_cases hn : n < 0
    · have : (n : ℚ) < 0 := by exact_mod_cast hn
      simpa [hn, abs_of_neg this, neg_div] using h
    · have : (0 : ℚ) ≤ n := by exact_mod_cast not_lt.mp hn
      simpa [hn, abs_of_nonneg this] using h

/-! ## Rounding to an integer -/

theorem isRneInt_rneDiv (a : Nat) {b : Nat} (hb : 0 < b) : IsRneInt (a / b) (rneDiv a b) := by
  obtain ⟨hup, hlow, htie⟩ := rneDiv_spec a hb
  have hbq : (0 : ℚ) < b := by exact_mod_cast hb
  have hq : (a / b : ℚ) - ((rneDiv a b : ℕ) : ℤ) = (2 * a - 2 * rneDiv a b * b) / (2 * b) := by
    push_cast
    field_simp
  qify at hup hlow
  rw [IsRneInt, hq]
  constructor
  · rw [abs_le, le_div_iff₀ (by positivity), div_le_iff₀ (by positivity)]
    constructor <;> linarith
  · intro h
    rw [Int.even_coe_nat, Nat.even_iff]
    refine htie ?_
    qify
    obtain h | h := eq_or_eq_neg_of_abs_eq h <;> rw [div_eq_iff (by positivity)] at h
    · left; linarith
    · right; linarith

theorem isRneInt_neg {q : ℚ} {n : ℤ} (h : IsRneInt q n) : IsRneInt (-q) (-n) := by
  have hdist : |-q - ((-n : ℤ) : ℚ)| = |q - n| := by
    rw [← abs_neg]
    push_cast
    congr 1
    ring
  rw [IsRneInt, hdist, even_neg]
  exact h

/-- Rounding a signed quotient to an integer. -/
theorem isRneInt_rneInt (a : ℤ) {b : Nat} (hb : 0 < b) : IsRneInt (a / b) (rneInt a b) := by
  have h := isRneInt_rneDiv a.natAbs hb
  unfold rneInt
  split
  next hneg =>
    have e : ((a.natAbs : ℕ) : ℚ) = -(a : ℚ) := by
      rw [Nat.cast_natAbs, Int.cast_abs, abs_of_neg (by exact_mod_cast hneg)]
    simpa [e, neg_div] using isRneInt_neg h
  next hpos =>
    have e : ((a.natAbs : ℕ) : ℚ) = (a : ℚ) := by
      rw [Nat.cast_natAbs, Int.cast_abs, abs_of_nonneg (by exact_mod_cast not_lt.mp hpos)]
    rwa [e] at h

/-! ## The statement -/

/-- `f32` rounds the exact rational, its zero without a sign. -/
theorem f32_roundsTo (n : ℤ) {d : Nat} (hd : 0 < d) : RoundsTo (n / d) (f32 n d) := by
  have h := roundsTo_pack_int (neg := decide (n < 0)) (n := n * 2 ^ 149) hd fun _ => by
    rw [decide_eq_decide]
    omega
  have hn : (n * 2 ^ 149).natAbs = n.natAbs * 2 ^ 149 := Int.natAbs_mul n (2 ^ 149)
  have hq : (n / d : ℚ) = ((n * 2 ^ 149 : ℤ) : ℚ) / d / 2 ^ 149 := by
    push_cast
    ring
  rw [hn] at h
  rw [hq]
  exact h

theorem f32_zero (d : Nat) : f32 0 d = 0x00000000#32 := by
  simp [f32, roundUnits_zero, pack]

/-- Settles O15: the midpoints of a pattern with every other one (`rawUnits_midpoint`) put the quotient
nearest to its own, and the midpoint of the largest finite pattern with infinity is the overflow bound. -/
theorem roundingIsNearestEven : Obligations.RoundingIsNearestEven :=
  ⟨fun n d hd => ⟨f32_roundsTo n hd, fun hn => by rw [hn, f32_zero]⟩, fun a _ hb => isRneInt_rneInt a hb⟩

end Sys2Proof.Machine
end

section
/-! Arithmetic, comparison and clamping of binary32 patterns as R9 has them: exact results rounded once, the
signs and invalid operations, and the order of values. -/

namespace Sys2Proof.Machine

open Sys2Proof.Safety

/-! ## Signs -/

theorem getLsbD_31_eq_fsign (x : F32) : x.getLsbD 31 = fsign x := by
  rw [fsign_eq_msb, BitVec.msb_eq_getLsbD_last]

/-- A finite zero is +0 or −0, by its sign. -/
theorem eq_negZero_iff {x : F32} (h : fint x = 0) : x = 0x80000000#32 ↔ fsign x = true := by
  constructor
  · rintro rfl
    decide
  · intro hs
    have hp : fpat x = 0 := by
      by_contra hne
      have := patMag_pos (Nat.pos_of_ne_zero hne)
      rw [fint_eq_zero_iff, fmag_eq] at h
      omega
    rw [← pack_parts x, hs, hp]
    rfl

theorem isNaN_fneg (x : F32) : isNaN (fneg x) = isNaN x := by
  rw [Bool.eq_iff_iff, isNaN_iff_fpat, isNaN_iff_fpat, fpat_fneg]

/-! ## Exact results rounded once -/

theorem fadd_roundsTo {x y : F32} (hx : finite x = true) (hy : finite y = true) :
    RoundsTo (val x + val y) (fadd x y) := by
  obtain ⟨neg, e, hs⟩ := fadd_finite hx hy
  have hq : val x + val y = ((fint x + fint y : ℤ) : ℚ) / (1 : ℕ) / 2 ^ 149 := by
    unfold val
    push_cast
    ring
  rw [e, hq]
  exact roundsTo_pack_int one_pos hs

theorem fsub_roundsTo {x y : F32} (hx : finite x = true) (hy : finite y = true) :
    RoundsTo (val x - val y) (fsub x y) := by
  rw [sub_eq_add_neg, ← val_fneg]
  exact fadd_roundsTo hx (by rwa [finite_fneg])

theorem fmul_roundsTo {x y : F32} (hx : finite x = true) (hy : finite y = true) :
    RoundsTo (val x * val y) (fmul x y) := by
  obtain ⟨e, hs⟩ := fmul_finite hx hy
  have hq : val x * val y = ((fint x * fint y : ℤ) : ℚ) / (2 ^ 149 : ℕ) / 2 ^ 149 := by
    unfold val
    push_cast
    ring
  rw [e, hq]
  exact roundsTo_pack_int (by positivity) hs

theorem fdiv_roundsTo {x y : F32} (hx : finite x = true) (hy : finite y = true) (h0 : val y ≠ 0) :
    RoundsTo (val x / val y) (fdiv x y) := by
  obtain ⟨e, hpos⟩ := fdiv_finite hx hy ((val_eq_zero_iff y).not.mp h0)
  have h := roundsTo_pack (fsign x != fsign y) (fmag x * 2 ^ 149) hpos
  have hmag : ((fmag x * 2 ^ 149 : ℕ) : ℚ) / fmag y / 2 ^ 149 = fmag x / 2 ^ 149 / (fmag y / 2 ^ 149) := by
    rw [Nat.cast_mul, Nat.cast_pow, Nat.cast_ofNat]
    field_simp
  rw [hmag] at h
  rw [e, val_eq x, val_eq y]
  convert h using 1
  cases fsign x <;> cases fsign y <;> simp [neg_div, div_neg]

/-! ## Signs of results -/

/-- A zero sum is +0 unless both operands are −0. -/
theorem fadd_zero_sum {x y : F32} (hx : finite x = true) (hy : finite y = true) (h : val x + val y = 0) :
    fadd x y = if x = 0x80000000#32 ∧ y = 0x80000000#32 then 0x80000000#32 else 0x00000000#32 := by
  have hsum : fint x + fint y = 0 := by
    have : (0 : ℚ) < 2 ^ 149 := by positivity
    rw [val, val, ← add_div, div_eq_zero_iff, or_iff_left this.ne'] at h
    exact_mod_cast h
  have hboth : (x = 0x80000000#32 ∧ y = 0x80000000#32) ↔ (fsign x && fsign y) = true := by
    rw [Bool.and_eq_true]
    constructor
    · rintro ⟨rfl, rfl⟩
      decide
    · rintro ⟨hsx, hsy⟩
      have hx0 : fint x ≤ 0 := by simp [fint, hsx]
      have hy0 : fint y ≤ 0 := by simp [fint, hsy]
      exact ⟨(eq_negZero_iff (by omega)).mpr hsx, (eq_negZero_iff (by omega)).mpr hsy⟩
  simp only [fadd, not_isNaN_of_finite hx, not_isNaN_of_finite hy, not_isInf_of_finite hx,
    not_isInf_of_finite hy, Bool.or_self, Bool.false_eq_true, if_false, hsum, if_true, hboth]
  rfl

theorem fmul_sign {x y : F32} (hx : finite x = true) (hy : finite y = true) :
    (fmul x y).getLsbD 31 = (x.getLsbD 31 ^^ y.getLsbD 31) := by
  simp only [getLsbD_31_eq_fsign]
  rw [(fmul_finite hx hy).1, fsign_pack _ (roundUnits_lt _ _), Bool.bne_eq_xor]

theorem fdiv_sign {x y : F32} (hx : finite x = true) (hy : finite y = true) (h0 : val y ≠ 0) :
    (fdiv x y).getLsbD 31 = (x.getLsbD 31 ^^ y.getLsbD 31) := by
  simp only [getLsbD_31_eq_fsign]
  rw [(fdiv_finite hx hy ((val_eq_zero_iff y).not.mp h0)).1,
    fsign_pack _ (roundUnits_lt _ _), Bool.bne_eq_xor]

/-! ## Invalid operations -/

theorem fdiv_zero_zero {x y : F32} (hx : finite x = true) (hy : finite y = true) (hx0 : val x = 0)
    (hy0 : val y = 0) : fdiv x y = qNaN := by
  rw [val_eq_zero_iff, fint_eq_zero_iff] at hx0 hy0
  simp [fdiv, not_isNaN_of_finite hx, not_isNaN_of_finite hy, not_isInf_of_finite hx,
    not_isInf_of_finite hy, hx0, hy0]

theorem fmul_zero_inf {x z : F32} (hx0 : val x = 0) (hz : isInf z = true) :
    fmul x z = qNaN ∧ fmul z x = qNaN := by
  rw [val_eq_zero_iff, fint_eq_zero_iff] at hx0
  simp [fmul, hz, hx0]

/-- A NaN operand gives the canonical NaN, whatever the operation. -/
theorem arith_nan {x y : F32} (h : isNaN x = true ∨ isNaN y = true) :
    fadd x y = qNaN ∧ fsub x y = qNaN ∧ fmul x y = qNaN ∧ fdiv x y = qNaN := by
  rw [← Bool.or_eq_true] at h
  simp [fsub, fadd, fmul, fdiv, isNaN_fneg, h]

/-- Settles O16: each operation on finite values is a quotient of units rounded once, and the rest are the
operations' first branches. -/
theorem arithmeticRoundsTheExactResultOnce : Obligations.ArithmeticRoundsTheExactResultOnce :=
  ⟨fun _ _ hx hy => ⟨fadd_roundsTo hx hy, fsub_roundsTo hx hy, fmul_roundsTo hx hy, fdiv_roundsTo hx hy,
    fadd_zero_sum hx hy, fmul_sign hx hy, fdiv_sign hx hy, fdiv_zero_zero hx hy,
    fun hx0 _ hz => fmul_zero_inf hx0 hz⟩, fun _ _ => arith_nan, by decide, by decide⟩

/-! ## Order -/

/-- Settles O17: on finite values the patterns' order is that of their units, so of their values. -/
theorem comparisonsOrderValues : Obligations.ComparisonsOrderValues := by
  constructor
  · intro x y hx hy
    rw [val_lt_iff, val_le_iff]
    exact ⟨flt_iff_fint hx hy, fle_iff_fint hx hy⟩
  · rintro x y (h | h) <;> simp [flt, fle, h]

/-! ## Clamping -/

theorem within_iff {lo hi x : F32} :
    within lo hi x = true ↔ fle lo x = true ∧ fle x hi = true := by
  rw [within, Bool.and_eq_true]

theorem clampf_of_isNaN {x : F32} (lo hi : F32) (h : isNaN x = true) : clampf x lo hi = lo := if_pos h

theorem clampf_of_lt {x lo : F32} (hi : F32) (h : flt x lo = true) : clampf x lo hi = lo := by
  simp [clampf, h]

/-- A value above the range is clamped to the upper bound: it is not below the range too. -/
theorem clampf_of_gt {x lo hi : F32} (hr : fle lo hi = true) (h : flt hi x = true) : clampf x lo hi = hi := by
  have hlo : flt x lo = false := by
    rw [Bool.eq_false_iff, ne_eq, flt_iff]
    rintro ⟨-, -, hlt⟩
    obtain ⟨-, -, hle⟩ := fle_iff.mp hr
    obtain ⟨-, -, hgt⟩ := flt_iff.mp h
    omega
  simp [clampf, (flt_iff.mp h).2.1, hlo, h]

/-- A value in the range is returned bit for bit. -/
theorem clampf_of_within {x lo hi : F32} (h : within lo hi x = true) : clampf x lo hi = x := by
  obtain ⟨hlo, hhi⟩ := within_iff.mp h
  obtain ⟨-, hx, h1⟩ := fle_iff.mp hlo
  obtain ⟨-, -, h2⟩ := fle_iff.mp hhi
  simp [clampf, flt, hx, h1.not_gt, h2.not_gt]

theorem within_clampf {lo hi : F32} (x : F32) (hr : fle lo hi = true) : within lo hi (clampf x lo hi) = true := by
  obtain ⟨hlo, hhi, -⟩ := fle_iff.mp hr
  rw [within_iff]
  obtain h | h | ⟨h, hin⟩ := clampf_cases (x := x) hlo hhi <;> rw [h]
  · exact ⟨fle_refl hlo, hr⟩
  · exact ⟨hr, fle_refl hhi⟩
  · exact hin

/-- Settles O18: one lemma for each side of the range, one inside it and one for a NaN. -/
theorem clampHoldsItsRange : Obligations.ClampHoldsItsRange := fun x lo hi hr =>
  ⟨within_clampf x hr, clampf_of_isNaN lo hi, clampf_of_within, clampf_of_lt hi, clampf_of_gt hr⟩

end Sys2Proof.Machine
end

section
/-! What a step can change, said once (R45): every register after a step comes from the same register before
it by unit operations of chapters 40 to 46, or is at its reset value. The invariants of R45 follow from it. -/

namespace Sys2Proof.Machine

/-! ## Each unit -/

/-- What one operation makes of an oscillator. -/
inductive OscChange (sr : Nat) (o : Osc) : Osc → Prop where
  | same : OscChange sr o o
  | voiceReset : OscChange sr o voiceOscReset
  | lfoReset : OscChange sr o lfoReset
  | freq (fr : F32) : OscChange sr o (oscSetFreq sr o fr)
  | wave (code : Nat) : OscChange sr o (oscSetWave o code)
  | amp (a : F32) : OscChange sr o (oscSetAmp o a)
  | pw (p : F32) : OscChange sr o (oscSetPw o p)
  | phase (delta : F32) : OscChange sr o (oscPhaseAdd o delta)
  | restart : OscChange sr o (zeroPhase o)
  | step (fm pwm : F32) (rst : Bool) : OscChange sr o (oscStep o fm pwm rst).1

/-- What one operation makes of an envelope. -/
inductive EnvChange (sr : Nat) (e : Env) : Env → Prop where
  | same : EnvChange sr e e
  | reset : EnvChange sr e envReset
  | attack (t : F32) : EnvChange sr e (envSetAttack sr e t)
  | decay (t : F32) : EnvChange sr e (envSetDecay sr e t)
  | sustain (l : F32) : EnvChange sr e (envSetSustain e l)
  | release (t : F32) : EnvChange sr e (envSetRelease sr e t)
  | gate (g : Bool) : EnvChange sr e (setGate e g)
  | tick : EnvChange sr e (envTick e)
  | process (g : Bool) : EnvChange sr e (envProcess e g).1

/-- What one operation makes of a ladder. -/
inductive LadderChange (sr : Nat) (f : Ladder) : Ladder → Prop where
  | same : LadderChange sr f f
  | reset : LadderChange sr f (ladderReset sr)
  | freq (fc : F32) : LadderChange sr f (ladderSetFreq sr f fc)
  | res (r : F32) : LadderChange sr f (ladderSetRes f r)
  | step (x g : F32) : LadderChange sr f (ladderStep f x g).1

/-- What one operation makes of a state-variable filter. -/
inductive SvfChange (sr : Nat) (f : Svf) : Svf → Prop where
  | same : SvfChange sr f f
  | reset : SvfChange sr f (svfReset sr)
  | freq (fc : F32) : SvfChange sr f (svfSetFreq sr f fc)
  | res (r : F32) : SvfChange sr f (svfSetRes f r)
  | step (x g : F32) : SvfChange sr f (svfStep f x g).1

/-- What one operation makes of a noise unit in a pool of `nv` voices. -/
inductive NoiseChange (nv : Nat) (n : Noise) : Noise → Prop where
  | same : NoiseChange nv n n
  | reset {v : Nat} (hv : v < nv) : NoiseChange nv n (noiseReset v)
  | amp (a : F32) : NoiseChange nv n (noiseSetAmp n a)
  | seed (w : Word) : NoiseChange nv n (noiseSeed n w)
  | step : NoiseChange nv n (noiseStep n).1

/-- What one operation makes of `fnote`. -/
inductive FnoteChange (x : F32) : F32 → Prop where
  | same : FnoteChange x x
  | reset : FnoteChange x fZero
  | note (n : Raw) : FnoteChange x (mtof n.toNat)

/-- What one operation makes of a voice: each of its units changes on its own. -/
structure VoiceChange (c : Config) (v w : Voice) : Prop where
  osc0 : OscChange c.sampleRate v.osc0 w.osc0
  osc1 : OscChange c.sampleRate v.osc1 w.osc1
  env0 : EnvChange c.sampleRate v.env0 w.env0
  env1 : EnvChange c.sampleRate v.env1 w.env1
  ladder : LadderChange c.sampleRate v.ladder w.ladder
  svf : SvfChange c.sampleRate v.svf w.svf
  noise : NoiseChange c.numVoices v.noise w.noise
  fnote : FnoteChange v.fnote w.fnote

/-! ## The registers outside the voices, and the whole state -/

/-- What one operation makes of the panel. -/
inductive PanelChange (P : Panel) : Panel → Prop where
  | same : PanelChange P P
  | reset : PanelChange P panelReset
  | write (p : Param) (r : Raw) : PanelChange P (P.write p r)

/-- What one operation makes of `LFO_LAST`, `o` being the LFO before it. -/
inductive LfoLastChange (o : Osc) (x : F32) : F32 → Prop where
  | same : LfoLastChange o x x
  | reset : LfoLastChange o x fZero
  | tick : LfoLastChange o x (oscStep o fZero fZero false).2

/-- What one operation makes of the state; the command stream and the outputs aside. -/
structure Change (s t : State) : Prop where
  config : t.config = s.config
  panel : PanelChange s.panel t.panel
  lfo : OscChange s.sampleRate s.lfo t.lfo
  lfoLast : LfoLastChange s.lfo s.lfoLast t.lfoLast
  voices : ∀ w ∈ t.voices, ∃ v ∈ s.voices, VoiceChange s.config v w

theorem VoiceChange.refl (c : Config) (v : Voice) : VoiceChange c v v :=
  ⟨.same, .same, .same, .same, .same, .same, .same, .same⟩

theorem Change.refl (s : State) : Change s s :=
  ⟨rfl, .same, .same, .same, fun w hw => ⟨w, hw, .refl _ w⟩⟩

theorem Change.respond {s t : State} (h : Change s t) (ws : List Word) : Change s (t.respond ws) :=
  ⟨h.config, h.panel, h.lfo, h.lfoLast, h.voices⟩

theorem change_consumeTo (s : State) (rest : List Word) : Change s (s.consumeTo rest) :=
  ⟨rfl, .same, .same, .same, (Change.refl s).voices⟩

theorem change_holdPartial (s : State) : Change s s.holdPartial :=
  ⟨rfl, .same, .same, .same, (Change.refl s).voices⟩

/-- Replacing the voices by as many, each changed by one operation, is a change of the state. -/
theorem change_with_voices {s : State} {vs : List Voice} (hlen : vs.length = s.voices.length)
    (h : ∀ w ∈ vs, ∃ v ∈ s.voices, VoiceChange s.config v w) : Change s { s with voices := vs } :=
  ⟨config_with_voices s hlen, .same, .same, .same, h⟩

/-! ## The shared operations -/

theorem change_onVoiceAt {s : State} (op : Op) (v : Nat) {f : Voice → Voice × List Word}
    (hf : ∀ x, VoiceChange s.config x (f x).1) : Change s (onVoiceAt s op v f) := by
  cases hx : s.voices[v]? with
  | none =>
    rw [onVoiceAt_none f hx]
    exact (Change.refl s).respond _
  | some x =>
    rw [onVoiceAt_some f hx]
    refine (change_with_voices List.length_set fun w hw => ?_).respond _
    obtain hw | rfl := List.mem_or_eq_of_mem_set hw
    · exact ⟨w, hw, .refl _ w⟩
    · exact ⟨x, List.mem_of_getElem? hx, hf x⟩

theorem change_onVoice {s : State} (op : Op) (tgt : Byte) {f : Voice → Voice × List Word}
    (hf : ∀ x, VoiceChange s.config x (f x).1) : Change s (onVoice s op tgt f) := by
  unfold onVoice
  split
  · exact (Change.refl s).respond _
  · exact change_onVoiceAt op _ hf

theorem change_onNoise {s : State} (op : Op) (tgt : Byte) {f : Noise → Noise × List Word}
    (hf : ∀ n, NoiseChange s.nv n (f n).1) : Change s (onNoise s op tgt f) :=
  change_onVoice op tgt fun x => { VoiceChange.refl s.config x with noise := hf x.noise }

theorem VoiceChange.setOsc {c : Config} {x : Voice} (k : Slot) {o : Osc}
    (h : OscChange c.sampleRate (x.osc k) o) : VoiceChange c x (x.setOsc k o) := by
  cases k
  · exact { VoiceChange.refl c x with osc0 := h }
  · exact { VoiceChange.refl c x with osc1 := h }

theorem VoiceChange.setEnv {c : Config} {x : Voice} (k : Slot) {e : Env}
    (h : EnvChange c.sampleRate (x.env k) e) : VoiceChange c x (x.setEnv k e) := by
  cases k
  · exact { VoiceChange.refl c x with env0 := h }
  · exact { VoiceChange.refl c x with env1 := h }

theorem change_onOsc {s : State} (op : Op) (tgt a : Byte) {f : Osc → Osc × List Word}
    (hf : ∀ o, OscChange s.sampleRate o (f o).1) : Change s (onOsc s op tgt a f) := by
  unfold onOsc
  split
  · exact (Change.refl s).respond _
  · exact ⟨rfl, .same, hf s.lfo, .same, (Change.refl s).voices⟩
  · exact change_onVoiceAt op _ fun x => .setOsc _ (hf _)

theorem change_onEnv {s : State} (op : Op) (tgt a : Byte) {f : Env → Env × List Word}
    (hf : ∀ e, EnvChange s.sampleRate e (f e).1) : Change s (onEnv s op tgt a f) := by
  unfold onEnv
  split
  · exact (Change.refl s).respond _
  · exact change_onVoiceAt op _ fun x => .setEnv _ (hf _)

theorem change_onFilter {s : State} (op : Op) (tgt a : Byte) {fl : Ladder → Ladder × List Word}
    {fs : Svf → Svf × List Word} (hl : ∀ f, LadderChange s.sampleRate f (fl f).1)
    (hs : ∀ f, SvfChange s.sampleRate f (fs f).1) : Change s (onFilter s op tgt a fl fs) := by
  unfold onFilter
  split
  · exact (Change.refl s).respond _
  · exact change_onVoiceAt op _ fun x => { VoiceChange.refl s.config x with ladder := hl _ }
  · exact change_onVoiceAt op _ fun x => { VoiceChange.refl s.config x with svf := hs _ }

/-! ## Notes, ticks, the panel and reset -/

theorem VoiceChange.noteOn (c : Config) (P : Panel) (v : Voice) (n vel : Raw) :
    VoiceChange c v (voiceNoteOn c.sampleRate P v n vel) :=
  ⟨.freq _, .freq _, .gate _, .gate _, .same, .same, .same, .note n⟩

theorem VoiceChange.noteOff (c : Config) (v : Voice) : VoiceChange c v (voiceNoteOff v) :=
  ⟨.same, .same, .gate false, .gate false, .same, .same, .same, .same⟩

theorem oscChange_voiceOscs (sr : Nat) (P : Panel) (v : Voice) (l : F32) :
    OscChange sr v.osc0 (voiceOscs P v l).1 ∧ OscChange sr v.osc1 (voiceOscs P v l).2.1 := by
  simp only [voiceOscs]
  split
  · exact ⟨.step _ _ _, .step _ _ _⟩
  · exact ⟨.step _ _ _, .same⟩

theorem VoiceChange.tick (c : Config) (P : Panel) (v : Voice) (l : F32) :
    VoiceChange c v (voiceTick c.sampleRate P v l).1 := by
  obtain ⟨h0, h1⟩ := oscChange_voiceOscs c.sampleRate P v l
  simp only [voiceTick]
  split
  · split
    · exact ⟨h0, h1, .tick, .tick, .same, .step _ _, .step, .same⟩
    · exact ⟨h0, h1, .tick, .tick, .step _ _, .same, .step, .same⟩
  · exact .refl c v

theorem VoiceChange.fanout (c : Config) (P : Panel) (p : Param) (v : Voice) :
    VoiceChange c v (fanoutVoice c.sampleRate P p v) := by
  have same := VoiceChange.refl c v
  cases p with
  | oscWaveform => exact { same with osc0 := .wave _, osc1 := .wave _ }
  | pulseWidth => exact { same with osc0 := .pw _, osc1 := .pw _ }
  | detuneCoarse | detuneFine => exact { same with osc1 := .freq _ }
  | noiseLevel => exact { same with noise := .amp _ }
  | filterResonance => exact { same with ladder := .res _, svf := .res _ }
  | ampAttack => exact { same with env0 := .attack _, env1 := .attack _ }
  | ampDecay => exact { same with env0 := .decay _, env1 := .decay _ }
  | ampSustain => exact { same with env0 := .sustain _, env1 := .sustain _ }
  | ampRelease => exact { same with env0 := .release _, env1 := .release _ }
  | _ => exact same

theorem oscChange_fanoutLfo (sr : Nat) (P : Panel) (p : Param) (o : Osc) :
    OscChange sr o (fanoutLfo sr P p o) := by
  cases p with
  | lfoWaveform => exact .wave _
  | lfoRate => exact .freq _
  | _ => exact .same

theorem VoiceChange.reset (c : Config) (u : Voice) {v : Nat} (hv : v < c.numVoices) :
    VoiceChange c u (voiceReset c.sampleRate v) :=
  ⟨.voiceReset, .voiceReset, .reset, .reset, .reset, .reset, .reset hv, .reset⟩

theorem change_setParam (s : State) (p : Param) (r : Raw) : Change s (setParam s p r) where
  config := setParam_config s p r
  panel := .write p r
  lfo := oscChange_fanoutLfo _ _ _ _
  lfoLast := .same
  voices w hw := by
    obtain ⟨v, hv, rfl⟩ := List.mem_map.mp hw
    exact ⟨v, hv, .fanout s.config _ p v⟩

theorem change_sampleTick (s : State) : Change s (sampleTick s) where
  config := renderSamples_config 1 s
  panel := .same
  lfo := .step _ _ _
  lfoLast := .tick
  voices w hw := by
    simp only [sampleTick, State.emitAudio_voices, tickVoices_voices] at hw
    obtain ⟨v, hv, rfl⟩ := List.mem_map.mp hw
    exact ⟨v, hv, .tick s.config _ v _⟩

theorem change_noteOn (s : State) (n vel : Raw) :
    Change s { s with voices := onFirstInactive (voiceNoteOn s.sampleRate s.panel · n vel) s.voices } := by
  refine change_with_voices (onFirstInactive_length _ _) fun w hw => ?_
  obtain hw | ⟨v, hv, rfl⟩ := mem_onFirstInactive hw
  · exact ⟨w, hw, .refl _ w⟩
  · exact ⟨v, hv, .noteOn s.config s.panel v n vel⟩

theorem change_releaseNote (s : State) (n : Raw) : Change s { s with voices := releaseNote n s.voices } := by
  refine change_with_voices (releaseNote_length _ _) fun w hw => ?_
  obtain ⟨v, hv, rfl⟩ := List.mem_map.mp hw
  refine ⟨v, hv, ?_⟩
  split
  · exact .noteOff _ v
  · exact .refl _ v

theorem change_reset {s t : State} (h : exec .reset s = .next t) : Change s t := by
  have hc := exec_config _ _ h
  cases h
  refine ⟨hc, .reset, .lfoReset, .reset, fun w hw => ?_⟩
  obtain ⟨v, hv, rfl⟩ := List.mem_map.mp hw
  rw [List.mem_range] at hv
  exact ⟨_, List.getElem_mem hv, .reset s.config _ hv⟩

/-! ## A command and a step -/

open Relation (ReflTransGen)

theorem changes_renderSamples (n : Nat) (s : State) : ReflTransGen Change s (renderSamples n s) :=
  renderSamples_invariant (ReflTransGen Change s) (fun t h => h.tail (change_sampleTick t)) n .refl

/-- Every command is a sequence of changes: one, except for the samples of a `RENDER`. -/
theorem exec_changes (i : Instr) {s t : State} (h : exec i s = .next t) : ReflTransGen Change s t := by
  cases i with
  | render count => cases h; exact changes_renderSamples _ _
  | nop => cases h; exact .refl
  | noteOn note vel =>
    simp only [exec, execNoteOn] at h
    split at h <;> cases h
    · exact .single (change_releaseNote _ _)
    · exact .single (change_noteOn _ _ _)
  | noteOff note vel => cases h; exact .single (change_releaseNote _ _)
  | controlChange id value =>
    simp only [exec, execControlChange] at h
    split at h <;> cases h
    · exact .refl
    · exact .single (change_setParam _ _ _)
  | readParam id =>
    simp only [exec, execReadParam] at h
    split at h <;> cases h <;> exact .single ((Change.refl s).respond _)
  | reset => exact .single (change_reset h)
  | oscSetFreq => cases h; exact .single (change_onOsc _ _ _ fun _ => .freq _)
  | oscSetWaveform => cases h; exact .single (change_onOsc _ _ _ fun _ => .wave _)
  | oscSetAmp => cases h; exact .single (change_onOsc _ _ _ fun _ => .amp _)
  | oscSetPw => cases h; exact .single (change_onOsc _ _ _ fun _ => .pw _)
  | oscPhaseAdd => cases h; exact .single (change_onOsc _ _ _ fun _ => .phase _)
  | oscReset => cases h; exact .single (change_onOsc _ _ _ fun _ => .restart)
  | oscProcess | oscProcessMod => cases h; exact .single (change_onOsc _ _ _ fun _ => .step _ _ _)
  | oscRead => cases h; exact .single (change_onOsc _ _ _ fun _ => .same)
  | envSetAttack => cases h; exact .single (change_onEnv _ _ _ fun _ => .attack _)
  | envSetDecay => cases h; exact .single (change_onEnv _ _ _ fun _ => .decay _)
  | envSetSustain => cases h; exact .single (change_onEnv _ _ _ fun _ => .sustain _)
  | envSetRelease => cases h; exact .single (change_onEnv _ _ _ fun _ => .release _)
  | envSetGate => cases h; exact .single (change_onEnv _ _ _ fun _ => .gate _)
  | envProcess => cases h; exact .single (change_onEnv _ _ _ fun _ => .process _)
  | envRead => cases h; exact .single (change_onEnv _ _ _ fun _ => .same)
  | fltSetFreq => cases h; exact .single (change_onFilter _ _ _ (fun _ => .freq _) fun _ => .freq _)
  | fltSetRes => cases h; exact .single (change_onFilter _ _ _ (fun _ => .res _) fun _ => .res _)
  | fltProcess | fltProcessMod =>
    cases h; exact .single (change_onFilter _ _ _ (fun _ => .step _ _) fun _ => .step _ _)
  | fltRead => cases h; exact .single (change_onFilter _ _ _ (fun _ => .same) fun _ => .same)
  | noiseSetAmp => cases h; exact .single (change_onNoise _ _ fun _ => .amp _)
  | noiseSeed => cases h; exact .single (change_onNoise _ _ fun _ => .seed _)
  | noiseProcess => cases h; exact .single (change_onNoise _ _ fun _ => .step)
  | noiseRead => cases h; exact .single (change_onNoise _ _ fun _ => .same)
  | readVoice => cases h; exact .single (change_onVoice _ _ fun v => .refl _ v)
  | voiceNoteOn => cases h; exact .single (change_onVoice _ _ fun v => .noteOn s.config _ v _ _)
  | voiceNoteOff => cases h; exact .single (change_onVoice _ _ fun v => .noteOff _ v)
  | voiceProcess => cases h; exact .single (change_onVoice _ _ fun v => .tick s.config _ v _)

/-- Every step is a sequence of changes. -/
theorem step_changes {s t : State} (h : step s = .next t) : ReflTransGen Change s t := by
  unfold step fetch at h
  split at h
  next => cases h; exact .refl
  next u hf =>
    cases h
    split at hf <;> cases hf
    · exact .single (change_consumeTo s _)
    · exact .single (change_holdPartial s)
  next i u hf =>
    split at hf <;> cases hf
    exact .head (change_consumeTo s _) (exec_changes i h)

/-- What every change keeps, every step keeps. -/
theorem step_keeps {I : State → Prop} (hI : ∀ {u v : State}, Change u v → I u → I v) {s t : State}
    (hs : I s) (h : step s = .next t) : I t := by
  replace h := step_changes h
  induction h with
  | refl => exact hs
  | tail _ hc ih => exact hI hc ih

end Sys2Proof.Machine
end

section
/-! Numbers in a range of exact values (R9): a rounded result lies between any two binary32 values that the
exact result lies between. -/

namespace Sys2Proof.Machine

open Sys2Proof.Safety

/-! ## Exact values -/

/-- `q` is the value of a finite binary32. -/
def IsValue (q : ℚ) : Prop := ∃ z, finite z = true ∧ val z = q

/-- `x` is a number of value in `[a, b]`. -/
def ValIn (a b : ℚ) (x : F32) : Prop := finite x = true ∧ a ≤ val x ∧ val x ≤ b

theorem isValue_val {x : F32} (h : finite x = true) : IsValue (val x) := ⟨x, h, rfl⟩

theorem IsValue.neg {q : ℚ} (h : IsValue q) : IsValue (-q) := by
  obtain ⟨z, hz, rfl⟩ := h
  exact ⟨fneg z, by rwa [finite_fneg], val_fneg z⟩

/-- A significand of 24 bits shifted left is the magnitude of a pattern. -/
theorem exists_patMag (i : ℕ) {k : ℕ} (hk : k ≤ 2 ^ 24) :
    ∃ p ≤ i * 2 ^ 23 + 2 ^ 24, patMag p = k * 2 ^ i := by
  induction i generalizing k with
  | zero =>
    have e := patMag_binade (j := 0) hk (.inl rfl)
    rw [zero_mul, zero_add] at e
    exact ⟨k, by omega, e⟩
  | succ i ih =>
    by_cases h : 2 ^ 23 ≤ k
    · exact ⟨(i + 1) * 2 ^ 23 + k, by omega, patMag_binade hk (.inr h)⟩
    · obtain ⟨p, hp, e⟩ := ih (k := 2 * k) (by omega)
      refine ⟨p, hp.trans ?_, by rw [e]; ring⟩
      gcongr
      exact i.le_succ

/-- Every multiple of a small power of two of at most 24 bits is a value. -/
theorem isValue_natCast_div {k : ℕ} (hk : k ≤ 2 ^ 24) {e : ℕ} (he : e ≤ 149) : IsValue (k / 2 ^ e) := by
  obtain ⟨p, hp, hm⟩ := exists_patMag (149 - e) hk
  have hp' : p < 0x7F800000 := by omega
  refine ⟨pack false p, finite_pack _ hp', ?_⟩
  have h149 : (2 : ℚ) ^ 149 = 2 ^ (149 - e) * 2 ^ e := by rw [← pow_add]; congr 1; omega
  rw [val, fint_pack_false (by omega), hm, h149]
  push_cast
  field_simp

theorem isValue_intCast_div {k : ℤ} (hk : |k| ≤ 2 ^ 24) {e : ℕ} (he : e ≤ 149) : IsValue (k / 2 ^ e) := by
  have h := isValue_natCast_div (k := k.natAbs) (by rw [Int.abs_eq_natAbs] at hk; exact_mod_cast hk) he
  rw [Nat.cast_natAbs, Int.cast_abs] at h
  obtain hc | hc := abs_choice (k : ℚ) <;> rw [hc] at h
  · exact h
  · simpa [neg_div] using h.neg

theorem isValue_intCast {k : ℤ} (hk : |k| ≤ 2 ^ 24) : IsValue k := by
  simpa using isValue_intCast_div hk (Nat.zero_le 149)

/-- A value is below the overflow bound. -/
theorem IsValue.abs_lt {q : ℚ} (h : IsValue q) : |q| < overflowBound := by
  obtain ⟨z, hz, rfl⟩ := h
  have hp : fpat z ≤ 0x7F7FFFFF := by
    rw [finite_iff_fpat] at hz
    omega
  have hm : fmag z ≤ patMag 0x7F7FFFFF := fmag_eq z ▸ patMag_strictMono.monotone hp
  have habs : |val z| = (fmag z : ℚ) / 2 ^ 149 := by
    rw [val, abs_div, ← Int.cast_abs, Int.abs_eq_natAbs, natAbs_fint, abs_of_pos (by positivity),
      Int.cast_natCast]
  calc |val z| = (fmag z : ℚ) / 2 ^ 149 := habs
    _ ≤ ((patMag 0x7F7FFFFF : ℕ) : ℚ) / 2 ^ 149 := by gcongr
    _ < overflowBound := by
      rw [show patMag 0x7F7FFFFF = (2 ^ 24 - 1) * 2 ^ 253 by decide]
      norm_num [overflowBound]

/-- Rounding keeps every bound that is itself a value. -/
theorem valIn_of_roundsTo {q a b : ℚ} {x : F32} (h : RoundsTo q x) (ha : IsValue a) (hb : IsValue b)
    (haq : a ≤ q) (hqb : q ≤ b) : ValIn a b x := by
  obtain ⟨hx, hnear⟩ := h.1 (abs_lt.mpr
    ⟨(abs_lt.mp ha.abs_lt).1.trans_le haq, hqb.trans_lt (abs_lt.mp hb.abs_lt).2⟩)
  obtain ⟨y, hy, rfl⟩ := ha
  obtain ⟨z, hz, rfl⟩ := hb
  refine ⟨hx, ?_, ?_⟩ <;> by_contra! hlt
  · have := (hnear y hy).1
    rw [abs_of_nonneg (by linarith), abs_of_nonneg (by linarith)] at this
    linarith
  · have := (hnear z hz).1
    rw [abs_of_nonpos (by linarith), abs_of_nonpos (by linarith)] at this
    linarith

/-! ## Ranges -/

theorem ValIn.finite {a b : ℚ} {x : F32} (h : ValIn a b x) : finite x = true := h.1

theorem ValIn.le {a b : ℚ} {x : F32} (h : ValIn a b x) : a ≤ val x := h.2.1

theorem ValIn.ge {a b : ℚ} {x : F32} (h : ValIn a b x) : val x ≤ b := h.2.2

theorem ValIn.eq {a : ℚ} {x : F32} (h : ValIn a a x) : val x = a := le_antisymm h.ge h.le

theorem ValIn.mono {a b c d : ℚ} {x : F32} (h : ValIn a b x) (hc : c ≤ a) (hd : b ≤ d) : ValIn c d x :=
  ⟨h.finite, hc.trans h.le, h.ge.trans hd⟩

section Operations

variable {a b : ℚ} {x y : F32} (ha : IsValue a) (hb : IsValue b)
include ha hb

theorem valIn_fadd (hx : finite x = true) (hy : finite y = true) (h1 : a ≤ val x + val y)
    (h2 : val x + val y ≤ b) : ValIn a b (fadd x y) := valIn_of_roundsTo (fadd_roundsTo hx hy) ha hb h1 h2

theorem valIn_fsub (hx : finite x = true) (hy : finite y = true) (h1 : a ≤ val x - val y)
    (h2 : val x - val y ≤ b) : ValIn a b (fsub x y) := valIn_of_roundsTo (fsub_roundsTo hx hy) ha hb h1 h2

theorem valIn_fmul (hx : finite x = true) (hy : finite y = true) (h1 : a ≤ val x * val y)
    (h2 : val x * val y ≤ b) : ValIn a b (fmul x y) := valIn_of_roundsTo (fmul_roundsTo hx hy) ha hb h1 h2

/-- Division by a positive value. -/
theorem valIn_fdiv (hx : finite x = true) (hy : finite y = true) (h0 : 0 < val y) (h1 : a * val y ≤ val x)
    (h2 : val x ≤ b * val y) : ValIn a b (fdiv x y) :=
  valIn_of_roundsTo (fdiv_roundsTo hx hy h0.ne') ha hb ((le_div_iff₀ h0).mpr h1) ((div_le_iff₀ h0).mpr h2)

theorem valIn_f32 {n : ℤ} {d : ℕ} (hd : 0 < d) (h1 : a ≤ n / d) (h2 : (n / d : ℚ) ≤ b) :
    ValIn a b (f32 n d) :=
  valIn_of_roundsTo (f32_roundsTo n hd) ha hb h1 h2

end Operations

/-- An integer of at most 24 bits is converted exactly. -/
theorem valIn_i2f {n : ℤ} (h : |n| ≤ 2 ^ 24) : ValIn n n (i2f n) :=
  valIn_f32 (isValue_intCast h) (isValue_intCast h) one_pos (by simp) (by simp)

theorem fle_iff_val {x y : F32} (hx : finite x = true) (hy : finite y = true) :
    fle x y = true ↔ val x ≤ val y := by rw [fle_iff_fint hx hy, val_le_iff]

theorem flt_iff_val {x y : F32} (hx : finite x = true) (hy : finite y = true) :
    flt x y = true ↔ val x < val y := by rw [flt_iff_fint hx hy, val_lt_iff]

theorem within_iff_valIn {lo hi x : F32} (hlo : finite lo = true) (hhi : finite hi = true) :
    within lo hi x = true ↔ ValIn (val lo) (val hi) x := by
  rw [within_iff]
  constructor
  · rintro ⟨h1, h2⟩
    have hx := finite_of_fle h1 h2 hlo hhi
    exact ⟨hx, (fle_iff_val hlo hx).mp h1, (fle_iff_val hx hhi).mp h2⟩
  · rintro ⟨hx, h1, h2⟩
    exact ⟨(fle_iff_val hlo hx).mpr h1, (fle_iff_val hx hhi).mpr h2⟩

/-- A clamp answers a number between its bounds, whatever it is given. -/
theorem valIn_clampf (x : F32) {lo hi : F32} (hlo : finite lo = true) (hhi : finite hi = true)
    (h : val lo ≤ val hi) : ValIn (val lo) (val hi) (clampf x lo hi) :=
  (within_iff_valIn hlo hhi).mp (within_clampf x ((fle_iff_val hlo hhi).mpr h))

theorem valIn_fmin {a b c d : ℚ} {x y : F32} (hx : ValIn a b x) (hy : ValIn c d y) :
    ValIn (min a c) (min b d) (fmin x y) := by
  obtain ⟨hxf, hxa, hxb⟩ := hx
  obtain ⟨hyf, hyc, hyd⟩ := hy
  unfold fmin
  split
  next h =>
    rw [flt_iff_val hyf hxf] at h
    exact ⟨hyf, min_le_of_right_le hyc, le_min (by linarith) hyd⟩
  next h =>
    rw [flt_iff_val hyf hxf, not_lt] at h
    exact ⟨hxf, min_le_of_left_le hxa, le_min hxb (by linarith)⟩

/-! ## The constants -/

theorem val_of_fint {x : F32} {n : ℤ} {q : ℚ} (h : fint x = n) (hq : (n : ℚ) = q * 2 ^ 149) : val x = q := by
  rw [val, h, hq, mul_div_cancel_right₀ _ (by positivity)]

@[simp] theorem val_fZero : val fZero = 0 := val_of_fint (n := 0) (by decide) (by norm_num)

@[simp] theorem val_fOne : val fOne = 1 := val_of_fint (n := 2 ^ 149) (by decide) (by norm_num)

@[simp] theorem val_fNegOne : val fNegOne = -1 := val_of_fint (n := -2 ^ 149) (by decide) (by norm_num)

@[simp] theorem val_fTwo : val fTwo = 2 := val_of_fint (n := 2 ^ 150) (by decide) (by norm_num)

@[simp] theorem val_fFour : val fFour = 4 := val_of_fint (n := 2 ^ 151) (by decide) (by norm_num)

@[simp] theorem val_twoNeg22 : val twoNeg22 = 1 / 2 ^ 22 := val_of_fint (n := 2 ^ 127) (by decide) (by norm_num)

@[simp] theorem val_twoNeg24 : val twoNeg24 = 1 / 2 ^ 24 := val_of_fint (n := 2 ^ 125) (by decide) (by norm_num)

@[simp] theorem val_envTimeMax : val envTimeMax = 60 :=
  val_of_fint (n := 60 * 2 ^ 149) (by decide) (by norm_num)

@[simp] theorem val_twoPi32 : val twoPi32 = 13176795 / 2 ^ 21 :=
  val_of_fint (n := 13176795 * 2 ^ 128) (by decide) (by norm_num)

@[simp] theorem val_resMax : val resMax = 15938355 / 2 ^ 24 :=
  val_of_fint (n := 15938355 * 2 ^ 125) (by decide) (by norm_num)

@[simp] theorem val_filterStateLimit : val filterStateLimit = 16 :=
  val_of_fint (n := 2 ^ 153) (by decide) (by norm_num)

theorem isValue_zero : IsValue 0 := ⟨fZero, by decide, val_fZero⟩

theorem isValue_one : IsValue 1 := ⟨fOne, by decide, val_fOne⟩

theorem isValue_two : IsValue 2 := ⟨fTwo, by decide, val_fTwo⟩

theorem inUnit_iff {x : F32} : inUnit x = true ↔ ValIn 0 1 x := by
  rw [inUnit, within_iff_valIn (by decide) (by decide), ← val_fZero, ← val_fOne]
  rfl

theorem inUnitPos_iff {x : F32} : inUnitPos x = true ↔ finite x = true ∧ 0 < val x ∧ val x ≤ 1 := by
  rw [← val_fZero, ← val_fOne, inUnitPos, Bool.and_eq_true]
  constructor
  · rintro ⟨h1, h2⟩
    obtain ⟨-, hn, hlt⟩ := flt_iff.mp h1
    have hx : finite x = true :=
      finite_of_fle (lo := fZero) (fle_iff.mpr ⟨by decide, hn, hlt.le⟩) h2 (by decide) (by decide)
    exact ⟨hx, (flt_iff_val (by decide) hx).mp h1, (fle_iff_val hx (by decide)).mp h2⟩
  · rintro ⟨hx, h1, h2⟩
    exact ⟨(flt_iff_val (by decide) hx).mpr h1, (fle_iff_val hx (by decide)).mpr h2⟩

end Sys2Proof.Machine
end

section
/-! The coefficients derived from a request stay in range at every legal sample rate (R35 to R37). -/

namespace Sys2Proof.Machine

open Sys2Proof.Safety

/-! ## The sample rate -/

section SampleRate

variable {sr : ℕ} (hlo : 8000 ≤ sr) (hhi : sr ≤ 192000)
include hhi

theorem valIn_sr32 : ValIn sr sr (sr32 sr) := valIn_i2f (n := sr) (by rw [Nat.abs_cast]; omega)

theorem isValue_half_rate : IsValue (sr / 2) := by
  simpa using isValue_natCast_div (k := sr) (by omega) (e := 1) (by decide)

theorem valIn_nyq32 : ValIn (sr / 2) (sr / 2) (nyq32 sr) :=
  valIn_f32 (isValue_half_rate hhi) (isValue_half_rate hhi) two_pos (by simp) (by simp)

theorem valIn_fcMax : ValIn 0 (sr / 2) (fcMax sr) := by
  have h0 : (0 : ℚ) ≤ sr := by positivity
  apply valIn_f32 isValue_zero (isValue_half_rate hhi) (by decide) <;> push_cast <;> linarith

/-- A clamped cutoff is at most half the sample rate. -/
theorem valIn_clampf_fcMax (fc : F32) : ValIn 0 (sr / 2) (clampf fc fZero (fcMax sr)) := by
  obtain ⟨hf, h0, h2⟩ := valIn_fcMax hhi
  have h := valIn_clampf fc (lo := fZero) (by decide) hf (by rwa [val_fZero])
  rw [val_fZero] at h
  exact h.mono le_rfl h2

/-! ## Envelope increments (R201) -/

theorem inUnitPos_tinc (t : F32) : inUnitPos (tinc sr t) = true := by
  have hsr : (sr : ℚ) ≤ 192000 := by exact_mod_cast hhi
  obtain ⟨hsf, hs⟩ := valIn_sr32 hhi
  obtain ⟨htf, ht0, ht⟩ := valIn_clampf t (lo := fZero) (hi := envTimeMax) (by decide) (by decide) (by norm_num)
  simp only [val_fZero, val_envTimeMax] at ht0 ht
  have hp : ValIn 0 (2 ^ 24 : ℤ) (fmul (clampf t fZero envTimeMax) (sr32 sr)) := by
    apply valIn_fmul isValue_zero (isValue_intCast (by norm_num)) htf hsf
    · nlinarith
    · push_cast
      nlinarith
  obtain ⟨hpf, -, hp⟩ := hp
  simp only [tinc]
  split
  next => decide
  next h =>
    rw [fle_iff_val hpf (by decide), val_fOne, not_le] at h
    have hv : IsValue (1 / 2 ^ 24) := ⟨twoNeg24, by decide, val_twoNeg24⟩
    obtain ⟨hf, h0, h1⟩ := valIn_fdiv hv isValue_one (x := fOne) (by decide) hpf (by linarith)
      (by push_cast at hp; rw [val_fOne]; linarith) (by rw [val_fOne]; linarith)
    exact inUnitPos_iff.mpr ⟨hf, lt_of_lt_of_le (by norm_num) h0, h1⟩

/-! ## The ladder's coefficient (R241) -/

omit hhi in
/-- `w / (1 + w)` stays below 1 after both roundings: the rounded sum is at least `1 + w` cut to 20 binary
places. -/
theorem valIn_ratio {w : F32} (hw : ValIn 0 4 w) :
    ValIn 0 (1 - 1 / 2 ^ 24) (fdiv w (fadd fOne w)) := by
  obtain ⟨hwf, hw0, hw4⟩ := hw
  have hk0 : 0 ≤ ⌊(1 + val w) * 2 ^ 20⌋ := Int.floor_nonneg.mpr (by positivity)
  have hk := Int.floor_le ((1 + val w) * 2 ^ 20)
  have hk' := Int.lt_floor_add_one ((1 + val w) * 2 ^ 20)
  generalize ⌊(1 + val w) * 2 ^ 20⌋ = k at hk0 hk hk'
  have hk24 : k ≤ 2 ^ 24 := by
    have : (k : ℚ) ≤ 2 ^ 24 := by linarith
    exact_mod_cast this
  have hz : IsValue (k / 2 ^ 20) := isValue_intCast_div (by rwa [abs_of_nonneg hk0]) (by decide)
  have h5 : IsValue (5 : ℤ) := isValue_intCast (by norm_num)
  obtain ⟨hdf, hd, -⟩ := valIn_fadd hz h5 (x := fOne) (by decide) hwf (by rw [val_fOne]; linarith)
    (by push_cast; rw [val_fOne]; linarith)
  have htop : IsValue (1 - 1 / 2 ^ 24) := by
    convert isValue_natCast_div (k := 2 ^ 24 - 1) (by decide) (e := 24) (by decide) using 1
    norm_num
  exact valIn_fdiv isValue_zero htop hwf hdf (by linarith) (by linarith) (by linarith)

include hlo

theorem valIn_coefLadder (fc : F32) : ValIn 0 (1 - 1 / 2 ^ 24) (coefLadder sr fc).2 := by
  have hsr : (8000 : ℚ) ≤ sr := by exact_mod_cast hlo
  obtain ⟨hff, hf0, hf⟩ := valIn_clampf_fcMax hhi fc
  obtain ⟨hsf, hs⟩ := valIn_sr32 hhi
  have h4 : IsValue (4 * sr) := by
    have := isValue_natCast_div (k := 4 * sr) (by omega) (e := 0) (by decide)
    simpa using this
  obtain ⟨hnf, hn0, hn⟩ := valIn_fmul isValue_zero h4 hff (y := twoPi32) (by decide)
    (by rw [val_twoPi32]; linarith) (by rw [val_twoPi32]; linarith)
  exact valIn_ratio (valIn_fdiv isValue_zero ⟨fFour, by decide, val_fFour⟩ hnf hsf (by linarith) (by linarith)
    (by linarith))

/-! ## Phases rounded to an integer -/

omit hlo hhi in
/-- A quotient between 0 and `m` rounds to a word of at most `m`. -/
theorem toNat_u32_rneInt_le {a : ℤ} {b m : ℕ} (hb : 0 < b) (h0 : 0 ≤ a) (h : a ≤ m * b) (hm : m < 2 ^ 32) :
    (u32 (rneInt a b)).toNat ≤ m := by
  have hle : rneDiv a.natAbs b ≤ m := rneDiv_le hb (by zify; rwa [abs_of_nonneg h0])
  have he : rneInt a b = rneDiv a.natAbs b := if_neg (by omega)
  rw [u32, he, BitVec.toNat_ofInt]
  omega

omit hhi in
/-- A frequency of at most half the sample rate is at most half of a cycle of `2 ^ (e + 1)` phase steps. -/
theorem toNat_cycle_le {x : F32} (hx : ValIn 0 (sr / 2) x) {e : ℕ} (he : e < 32) :
    (u32 (rneInt (fint x * 2 ^ (e + 1)) (2 ^ 149 * sr))).toNat ≤ 2 ^ e := by
  obtain ⟨-, h0, h1⟩ := hx
  rw [val, div_le_iff₀ (by positivity)] at h1
  rw [val, le_div_iff₀ (by positivity), zero_mul] at h0
  refine toNat_u32_rneInt_le (by positivity) ?_ ?_ (Nat.pow_lt_pow_right one_lt_two he)
  · exact mul_nonneg (by exact_mod_cast h0) (by positivity)
  · have := mul_le_mul_of_nonneg_right h1 (by positivity : (0 : ℚ) ≤ 2 ^ (e + 1))
    qify
    rw [pow_succ] at this ⊢
    linarith

/-- The increment of a request is at most half a cycle (R145). -/
theorem toNat_incOf_le (fr : F32) : (incOf sr fr).toNat ≤ 2 ^ 31 := by
  obtain ⟨hnf, hn0, hn1⟩ := valIn_nyq32 hhi
  have h := valIn_clampf fr (lo := fZero) (by decide) hnf
    (by rw [val_fZero]; exact le_trans (by positivity) hn0)
  rw [val_fZero] at h
  exact toNat_cycle_le hlo (h.mono le_rfl hn1) (e := 31) (by decide)

/-! ## The SVF's coefficient (R251) -/

omit hlo hhi in
theorem valIn_sineEntry {i : ℕ} (hi : i ≤ 512) : ValIn 0 1 (sineEntry i) := by
  have h : ∀ i < 513, inUnit (sineEntry i) = true := by decide +kernel
  exact inUnit_iff.mp (h i (by omega))

omit hlo hhi in
/-- In the first quarter of the cycle the sine is not negative: the interpolation takes no more from an entry
than the entry is. -/
theorem valIn_sinlut {a : Word} (ha : a.toNat ≤ 2 ^ 30) : ValIn 0 2 (sinlut a) := by
  obtain ⟨h0f, h00, h01⟩ := valIn_sineEntry (i := a.toNat / 2 ^ 22) (by omega)
  obtain ⟨h1f, h10, h11⟩ := valIn_sineEntry (i := (a.toNat / 2 ^ 22 + 1) % 1024) (by omega)
  simp only [sinlut]
  generalize sineEntry (a.toNat / 2 ^ 22) = l0 at *
  generalize sineEntry ((a.toNat / 2 ^ 22 + 1) % 1024) = l1 at *
  have hr : a.toNat % 2 ^ 22 < 2 ^ 22 := Nat.mod_lt _ (by decide)
  obtain ⟨hrf, hr0, hr1⟩ : ValIn 0 1 (fmul (i2f (a.toNat % 2 ^ 22 : ℕ)) twoNeg22) := by
    have hi := valIn_i2f (n := (a.toNat % 2 ^ 22 : ℕ)) (by rw [Nat.abs_cast]; omega)
    have hrq : ((a.toNat % 2 ^ 22 : ℕ) : ℚ) ≤ 2 ^ 22 := by exact_mod_cast hr.le
    rw [Int.cast_natCast] at hi
    apply valIn_fmul isValue_zero isValue_one hi.finite (by decide) <;> rw [hi.eq, val_twoNeg22]
    · positivity
    · rw [mul_one_div]
      exact div_le_one_of_le₀ hrq (by positivity)
  obtain ⟨hdf, hd0, hd1⟩ := valIn_fsub (isValue_val h0f).neg isValue_one h1f h0f (by linarith) (by linarith)
  obtain ⟨hmf, hm0, hm1⟩ := valIn_fmul (isValue_val h0f).neg isValue_one hrf hdf (by nlinarith) (by nlinarith)
  exact valIn_fadd isValue_zero isValue_two h0f hmf (by linarith) (by linarith)

theorem valIn_coefSvf (fc : F32) : ValIn 0 (val svfFMax) (coefSvf sr fc).2 := by
  have hp := toNat_cycle_le hlo (valIn_clampf_fcMax hhi fc) (e := 30) (by decide)
  obtain ⟨hsf, hs0, hs2⟩ := valIn_sinlut hp
  have h2 := valIn_fmul isValue_zero ⟨fFour, by decide, val_fFour⟩ (x := fTwo) (by decide) hsf
    (by rw [val_fTwo]; linarith) (by rw [val_fTwo]; linarith)
  have hmax : ValIn 0 (val svfFMax) svfFMax :=
    ⟨by decide, (fle_iff_val (x := fZero) (by decide) (by decide)).mp (by decide) |>.trans' val_fZero.ge, le_rfl⟩
  exact (valIn_fmin h2 hmax).mono (min_self _).ge (min_le_right _ _)

end SampleRate

/-! ## Feedback gain and damping (R252) -/

theorem valIn_clampRes (r : F32) : ValIn 0 (15938355 / 2 ^ 24) (clampRes r) := by
  have h := valIn_clampf r (lo := fZero) (hi := resMax) (by decide) (by decide) (by norm_num)
  rwa [val_fZero, val_resMax] at h

theorem within_ladderGain (r : F32) : within 0x00000000#32 0x40733333#32 (ladderGain (clampRes r)) = true := by
  obtain ⟨hf, h0, h1⟩ := valIn_clampRes r
  have hmax : val 0x40733333#32 = 15938355 / 2 ^ 22 :=
    val_of_fint (n := 15938355 * 2 ^ 127) (by decide) (by norm_num)
  rw [within_iff_valIn (by decide) (by decide)]
  apply valIn_fmul (isValue_val (by decide)) (isValue_val (by decide)) (by decide) hf
  · exact val_fZero.le.trans (by rw [val_fFour]; linarith)
  · rw [val_fFour, hmax]
    linarith

theorem within_svfDamping (r : F32) : within 0x3DCCCCD0#32 0x40000000#32 (svfDamping (clampRes r)) = true := by
  obtain ⟨hf, h0, h1⟩ := valIn_clampRes r
  have hmin : val 0x3DCCCCD0#32 = 838861 / 2 ^ 23 :=
    val_of_fint (n := 838861 * 2 ^ 126) (by decide) (by norm_num)
  have hlow : IsValue ((838861 : ℕ) / 2 ^ 24) := isValue_natCast_div (by decide) (by decide)
  obtain ⟨hdf, hd0, hd1⟩ := valIn_fsub hlow isValue_one (x := fOne) (by decide) hf
    (by rw [val_fOne]; push_cast; linarith) (by rw [val_fOne]; linarith)
  push_cast at hd0
  rw [within_iff_valIn (by decide) (by decide)]
  apply valIn_fmul (isValue_val (by decide)) (isValue_val (by decide)) (by decide) hdf
  · rw [val_fTwo, hmin]
    linarith
  · exact le_trans (by rw [val_fTwo]; linarith) val_fTwo.ge

/-- Settles O33: each coefficient is a rounded formula of a clamped request, and rounding keeps its bounds. -/
theorem coefficientsStayInRange : Obligations.CoefficientsStayInRange := by
  intro sr x hlo hhi
  obtain ⟨hgf, hg0, hg1⟩ := valIn_coefLadder hlo hhi x
  refine ⟨inUnitPos_tinc hhi x, (fle_iff_val (by decide) hgf).mpr (val_fZero.le.trans hg0),
    (flt_iff_val hgf (by decide)).mpr ?_, (within_iff_valIn (by decide) (by decide)).mpr ?_,
    within_ladderGain x, within_svfDamping x⟩
  · exact lt_of_lt_of_le (by linarith) val_fOne.ge
  · exact (valIn_coefSvf hlo hhi x).mono val_fZero.le le_rfl

end Sys2Proof.Machine
end

section
/-! Every step keeps the ranges of R45 of the envelopes, filters, noise units, panel and oscillators: each
change of a unit keeps its range. -/

namespace Sys2Proof.Machine

open Sys2Proof.Safety

/-- Legal parameters are the ranges of R6. -/
theorem paramsOk_iff {s : State} :
    paramsOk s = true ↔ 8000 ≤ s.sampleRate ∧ s.sampleRate ≤ 192000 ∧ 1 ≤ s.nv ∧ s.nv ≤ 255 := by
  simp only [paramsOk, Config.legal, Bool.and_eq_true, decide_eq_true_eq, and_assoc]
  rfl

theorem Change.keeps_paramsOk {s t : State} (h : Change s t) (hs : paramsOk s = true) : paramsOk t = true := by
  rw [paramsOk, h.config]
  exact hs

/-- An invariant that changes keep where the parameters are legal is kept by every step from there. -/
theorem step_keeps_of_paramsOk {I : State → Prop}
    (hI : ∀ {u v : State}, paramsOk u = true → Change u v → I u → I v) {s t : State}
    (hp : paramsOk s = true) (hs : I s) (h : step s = .next t) : I t :=
  (step_keeps (I := fun u => paramsOk u = true ∧ I u)
    (fun hc hu => ⟨hc.keeps_paramsOk hu.1, hI hu.1 hc hu.2⟩) ⟨hp, hs⟩ h).2

theorem inUnit_clampUnit (x : F32) : inUnit (clampUnit x) = true := within_clampf x (by decide)

theorem inUnit_fZero : inUnit fZero = true := by decide

theorem inUnit_fOne : inUnit fOne = true := by decide

/-! ## Oscillators -/

theorem oscOk_iff {o : Osc} :
    oscOk o = true ↔ o.inc.toNat ≤ 2 ^ 31 ∧ inUnit o.amp = true ∧ inUnit o.pw = true := by
  simp only [oscOk, Bool.and_eq_true, decide_eq_true_eq, and_assoc]

/-- A step leaves the settings of an oscillator alone (R150). -/
theorem oscStep_settings (o : Osc) (fm pwm : F32) (rst : Bool) :
    (oscStep o fm pwm rst).1.inc = o.inc ∧ (oscStep o fm pwm rst).1.amp = o.amp ∧
      (oscStep o fm pwm rst).1.pw = o.pw := by
  cases rst <;> exact ⟨rfl, rfl, rfl⟩

theorem OscChange.keeps_oscOk {sr : ℕ} (hlo : 8000 ≤ sr) (hhi : sr ≤ 192000) {o o' : Osc} (h : OscChange sr o o')
    (ho : oscOk o = true) : oscOk o' = true := by
  rw [oscOk_iff] at ho ⊢
  obtain ⟨hinc, hamp, hpw⟩ := ho
  cases h with
  | same | wave | phase | restart => exact ⟨hinc, hamp, hpw⟩
  | voiceReset | lfoReset => decide
  | freq fr => exact ⟨toNat_incOf_le hlo hhi fr, hamp, hpw⟩
  | amp a => exact ⟨hinc, inUnit_clampUnit a, hpw⟩
  | pw p => exact ⟨hinc, hamp, inUnit_clampUnit p⟩
  | step fm pwm rst =>
    obtain ⟨h1, h2, h3⟩ := oscStep_settings o fm pwm rst
    rw [h1, h2, h3]
    exact ⟨hinc, hamp, hpw⟩

theorem Change.keeps_oscsOk {s t : State} (hp : paramsOk s = true) (h : Change s t) (hs : OscsOk s) : OscsOk t := by
  obtain ⟨hlo, hhi, -⟩ := paramsOk_iff.mp hp
  obtain ⟨hlfo, hvs⟩ := hs
  refine ⟨h.lfo.keeps_oscOk hlo hhi hlfo, fun w hw => ?_⟩
  obtain ⟨v, hv, hc⟩ := h.voices w hw
  exact ⟨hc.osc0.keeps_oscOk hlo hhi (hvs v hv).1, hc.osc1.keeps_oscOk hlo hhi (hvs v hv).2⟩

/-- Settles O54: only a frequency, an amplitude or a pulse width is written, each from a clamped request. -/
theorem stepKeepsOscillatorsInRange : Obligations.StepKeepsOscillatorsInRange :=
  fun _ _ hp hs h => step_keeps_of_paramsOk Change.keeps_oscsOk hp hs h

/-! ## Envelopes -/

/-- The ranges of an envelope as values; the gate's tie to the stage and the level in IDLE (R205, R206). -/
theorem envOk_iff {e : Env} : envOk e = true ↔ inUnit e.level = true ∧ inUnit e.sus = true ∧
    inUnitPos e.aInc = true ∧ inUnitPos e.dInc = true ∧ inUnitPos e.rInc = true ∧
    (e.stage = .idle → e.level = fZero) ∧ e.gate = gatedStage e.stage := by
  have hidle : (e.stage = .idle → e.level = fZero) ↔ e.stage ≠ .idle ∨ e.level = 0x00000000#32 := imp_iff_not_or
  rw [hidle]
  simp only [envOk, Bool.and_eq_true, Bool.or_eq_true, bne_iff_ne, beq_iff_eq, and_assoc]

/-- Only a change of the gate changes the stage, and the new stage is one the gate holds or RELEASE (R205). -/
theorem envOk_setGate {e : Env} (g : Bool) (h : envOk e = true) : envOk (setGate e g) = true := by
  rw [envOk_iff] at h ⊢
  obtain ⟨hl, hs, ha, hd, hr, hidle, hgate⟩ := h
  unfold setGate
  split
  next hg =>
    rw [Bool.and_eq_true] at hg
    exact ⟨hl, hs, ha, hd, hr, nofun, hg.1⟩
  next hrise =>
    split
    next hg =>
      simp only [Bool.and_eq_true, Bool.not_eq_true'] at hg
      exact ⟨hl, hs, ha, hd, hr, nofun, hg.1.1⟩
    next hfall =>
      have hoff : e.stage = .idle → e.gate = false := fun hi => by rw [hgate, hi]; rfl
      have hsame : g = e.gate := by cases g <;> cases hge : e.gate <;> simp_all
      exact ⟨hl, hs, ha, hd, hr, hidle, hsame.trans hgate⟩

/-- A level less an increment is a number of at most 1. -/
theorem valIn_fsub_unit {x d : F32} (hx : inUnit x = true) (hd : inUnitPos d = true) :
    ValIn (-1) 1 (fsub x d) := by
  obtain ⟨hxf, hx0, hx1⟩ := inUnit_iff.mp hx
  obtain ⟨hdf, hd0, hd1⟩ := inUnitPos_iff.mp hd
  exact valIn_fsub isValue_one.neg isValue_one hxf hdf (by linarith) (by linarith)

/-- Each stage's tick either stops at the stage's end or has not passed it (R206). -/
theorem envOk_envTick {e : Env} (h : envOk e = true) : envOk (envTick e) = true := by
  rw [envOk_iff] at h ⊢
  obtain ⟨hl, hs, ha, hd, hr, hidle, hgate⟩ := h
  obtain ⟨hlf, hl0, hl1⟩ := inUnit_iff.mp hl
  obtain ⟨hsf, hs0, hs1⟩ := inUnit_iff.mp hs
  unfold envTick
  split
  next st => exact ⟨inUnit_fZero, hs, ha, hd, hr, fun _ => rfl, hgate⟩
  next st =>
    obtain ⟨haf, ha0, ha1⟩ := inUnitPos_iff.mp ha
    obtain ⟨hxf, hx0, -⟩ := valIn_fadd isValue_zero isValue_two hlf haf (by linarith) (by linarith)
    simp only
    split
    next hend => exact ⟨inUnit_fOne, hs, ha, hd, hr, nofun, by rw [hgate, st]; rfl⟩
    next hend =>
      rw [fle_iff_val (by decide) hxf, val_fOne, not_le] at hend
      exact ⟨inUnit_iff.mpr ⟨hxf, hx0, hend.le⟩, hs, ha, hd, hr, by simp [st], hgate⟩
  next st =>
    obtain ⟨hxf, -, hx1⟩ := valIn_fsub_unit hl hd
    simp only
    split
    next hend => exact ⟨hs, hs, ha, hd, hr, nofun, by rw [hgate, st]; rfl⟩
    next hend =>
      rw [fle_iff_val hxf hsf, not_le] at hend
      exact ⟨inUnit_iff.mpr ⟨hxf, by linarith, hx1⟩, hs, ha, hd, hr, by simp [st], hgate⟩
  next st => exact ⟨hs, hs, ha, hd, hr, by simp [st], hgate⟩
  next st =>
    obtain ⟨hxf, -, hx1⟩ := valIn_fsub_unit hl hr
    simp only
    split
    next hend => exact ⟨inUnit_fZero, hs, ha, hd, hr, fun _ => rfl, by rw [hgate, st]; rfl⟩
    next hend =>
      rw [fle_iff_val hxf (by decide), val_fZero, not_le] at hend
      exact ⟨inUnit_iff.mpr ⟨hxf, hend.le, hx1⟩, hs, ha, hd, hr, by simp [st], hgate⟩

theorem EnvChange.keeps_envOk {sr : ℕ} (hhi : sr ≤ 192000) {e e' : Env} (h : EnvChange sr e e')
    (he : envOk e = true) : envOk e' = true := by
  have ho := envOk_iff.mp he
  obtain ⟨hl, hs, ha, hd, hr, hidle, hgate⟩ := ho
  cases h with
  | same => exact he
  | reset => decide
  | attack t => exact envOk_iff.mpr ⟨hl, hs, inUnitPos_tinc hhi t, hd, hr, hidle, hgate⟩
  | decay t => exact envOk_iff.mpr ⟨hl, hs, ha, inUnitPos_tinc hhi t, hr, hidle, hgate⟩
  | sustain l => exact envOk_iff.mpr ⟨hl, inUnit_clampUnit l, ha, hd, hr, hidle, hgate⟩
  | release t => exact envOk_iff.mpr ⟨hl, hs, ha, hd, inUnitPos_tinc hhi t, hidle, hgate⟩
  | gate g => exact envOk_setGate g he
  | tick => exact envOk_envTick he
  | process g => exact envOk_envTick (envOk_setGate g he)

theorem Change.keeps_envsOk {s t : State} (hp : paramsOk s = true) (h : Change s t) (hs : EnvsOk s) : EnvsOk t := by
  obtain ⟨-, hhi, -⟩ := paramsOk_iff.mp hp
  intro w hw
  obtain ⟨v, hv, hc⟩ := h.voices w hw
  exact ⟨hc.env0.keeps_envOk hhi (hs v hv).1, hc.env1.keeps_envOk hhi (hs v hv).2⟩

/-- Settles O56: the setters clamp, a gate edge moves to the stage it holds, and a tick stops at its stage's
end. -/
theorem stepKeepsEnvelopesInRange : Obligations.StepKeepsEnvelopesInRange :=
  fun _ _ hp hs h => step_keeps_of_paramsOk Change.keeps_envsOk hp hs h

/-! ## Filters -/

theorem inFilterRange_lim (x : F32) : inFilterRange (lim x) = true := within_clampf x (by decide)

theorem within_clampRes (r : F32) : within 0x00000000#32 0x3F733333#32 (clampRes r) = true :=
  within_clampf r (by decide)

/-- The clamped cutoff of `coef_ladder` and `coef_svf` is clamped to itself. -/
theorem clampf_fcMax_idem {sr : ℕ} (hhi : sr ≤ 192000) (fc : F32) :
    clampf (clampf fc fZero (fcMax sr)) fZero (fcMax sr) = clampf fc fZero (fcMax sr) := by
  obtain ⟨hf, h0, -⟩ := valIn_fcMax hhi
  exact clampf_of_within (within_clampf fc ((fle_iff_val (by decide) hf).mpr (val_fZero.le.trans h0)))

theorem coefLadder_idem {sr : ℕ} (hhi : sr ≤ 192000) (fc : F32) :
    coefLadder sr (coefLadder sr fc).1 = coefLadder sr fc := by
  simp only [coefLadder, clampf_fcMax_idem hhi]

theorem coefSvf_idem {sr : ℕ} (hhi : sr ≤ 192000) (fc : F32) :
    coefSvf sr (coefSvf sr fc).1 = coefSvf sr fc := by
  simp only [coefSvf, clampf_fcMax_idem hhi]

theorem ladderOk_iff {sr : ℕ} {f : Ladder} : ladderOk sr f = true ↔
    (inFilterRange f.s0 = true ∧ inFilterRange f.s1 = true ∧ inFilterRange f.s2 = true ∧
      inFilterRange f.s3 = true) ∧
    within 0x00000000#32 0x3F733333#32 f.res = true ∧ coefLadder sr f.fc = (f.fc, f.g) ∧
    ladderGain f.res = f.k := by
  simp only [ladderOk, Bool.and_eq_true, beq_iff_eq, and_assoc]

theorem svfOk_iff {sr : ℕ} {f : Svf} : svfOk sr f = true ↔
    (inFilterRange f.low = true ∧ inFilterRange f.band = true ∧ inFilterRange f.high = true) ∧
    within 0x00000000#32 0x3F733333#32 f.res = true ∧ coefSvf sr f.fc = (f.fc, f.f) ∧
    svfDamping f.res = f.q := by
  simp only [svfOk, Bool.and_eq_true, beq_iff_eq, and_assoc]

theorem ladderOk_reset {sr : ℕ} (hhi : sr ≤ 192000) : ladderOk sr (ladderReset sr) = true :=
  ladderOk_iff.mpr ⟨by simp only [ladderReset]; decide, by simp only [ladderReset]; decide,
    coefLadder_idem hhi _, by simp only [ladderReset]; decide⟩

theorem svfOk_reset {sr : ℕ} (hhi : sr ≤ 192000) : svfOk sr (svfReset sr) = true :=
  svfOk_iff.mpr ⟨by simp only [svfReset]; decide, by simp only [svfReset]; decide,
    coefSvf_idem hhi _, by simp only [svfReset]; decide⟩

theorem LadderChange.keeps_ladderOk {sr : ℕ} (hhi : sr ≤ 192000) {f f' : Ladder} (h : LadderChange sr f f')
    (hf : ladderOk sr f = true) : ladderOk sr f' = true := by
  have ho := ladderOk_iff.mp hf
  obtain ⟨hst, hres, hg, hk⟩ := ho
  cases h with
  | same => exact hf
  | reset => exact ladderOk_reset hhi
  | freq fc => exact ladderOk_iff.mpr ⟨hst, hres, coefLadder_idem hhi fc, hk⟩
  | res r => exact ladderOk_iff.mpr ⟨hst, within_clampRes r, hg, rfl⟩
  | step x g =>
    exact ladderOk_iff.mpr ⟨⟨inFilterRange_lim _, inFilterRange_lim _, inFilterRange_lim _,
      inFilterRange_lim _⟩, hres, hg, hk⟩

theorem SvfChange.keeps_svfOk {sr : ℕ} (hhi : sr ≤ 192000) {f f' : Svf} (h : SvfChange sr f f')
    (hf : svfOk sr f = true) : svfOk sr f' = true := by
  have ho := svfOk_iff.mp hf
  obtain ⟨hst, hres, hg, hq⟩ := ho
  cases h with
  | same => exact hf
  | reset => exact svfOk_reset hhi
  | freq fc => exact svfOk_iff.mpr ⟨hst, hres, coefSvf_idem hhi fc, hq⟩
  | res r => exact svfOk_iff.mpr ⟨hst, within_clampRes r, hg, rfl⟩
  | step x g =>
    exact svfOk_iff.mpr ⟨⟨inFilterRange_lim _, inFilterRange_lim _, inFilterRange_lim _⟩, hres, hg, hq⟩

theorem Change.keeps_filtersOk {s t : State} (hp : paramsOk s = true) (h : Change s t) (hs : FiltersOk s) :
    FiltersOk t := by
  obtain ⟨-, hhi, -⟩ := paramsOk_iff.mp hp
  intro w hw
  obtain ⟨v, hv, hc⟩ := h.voices w hw
  obtain ⟨hl, hv⟩ := hs v hv
  have hsr : t.sampleRate = s.sampleRate := congrArg Config.sampleRate h.config
  rw [hsr]
  exact ⟨hc.ladder.keeps_ladderOk hhi hl, hc.svf.keeps_svfOk hhi hv⟩

/-- Settles O57: every state write is limited, and a setter stores a clamped request with its coefficient. -/
theorem stepKeepsFiltersInRange : Obligations.StepKeepsFiltersInRange :=
  fun _ _ hp hs h => step_keeps_of_paramsOk Change.keeps_filtersOk hp hs h

/-! ## Noise -/

theorem noiseOk_iff {n : Noise} : noiseOk n = true ↔ n.state ≠ 0#32 ∧ inUnit n.amp = true := by
  simp only [noiseOk, Bool.and_eq_true, bne_iff_ne]

/-- A shift that loses a 1 sets bit 31 by the mask, and one that does not keeps a 1 (R280). -/
theorem lfsrNext_ne_zero {st : Word} (h : st ≠ 0#32) : lfsrNext st ≠ 0#32 := by
  simp only [lfsrNext]
  split
  next h0 =>
    intro e
    have : ((st >>> 1) ^^^ lfsrMask).getLsbD 31 = true := by simp [lfsrMask]
    simp [e] at this
  next h0 =>
    intro e
    have hn := congrArg BitVec.toNat e
    rw [BitVec.toNat_ushiftRight, Nat.shiftRight_eq_div_pow] at hn
    have hbit : st.toNat % 2 = 0 := by simpa [BitVec.getLsbD, Nat.testBit_zero] using h0
    exact h (BitVec.eq_of_toNat_eq (by rw [BitVec.toNat_ofNat] at hn ⊢; omega))

theorem noiseOk_reset {v : ℕ} (hv : v < 255) : noiseOk (noiseReset v) = true := by
  refine noiseOk_iff.mpr ⟨fun e => ?_, by simp only [noiseReset]; decide⟩
  have := congrArg BitVec.toNat e
  simp only [noiseReset, BitVec.toNat_ofNat] at this
  omega

theorem NoiseChange.keeps_noiseOk {nv : ℕ} (hnv : nv ≤ 255) {n n' : Noise} (h : NoiseChange nv n n')
    (hn : noiseOk n = true) : noiseOk n' = true := by
  have ho := noiseOk_iff.mp hn
  obtain ⟨hst, hamp⟩ := ho
  cases h with
  | same => exact hn
  | reset hv => exact noiseOk_reset (by omega)
  | amp a => exact noiseOk_iff.mpr ⟨hst, inUnit_clampUnit a⟩
  | seed w =>
    refine noiseOk_iff.mpr ⟨?_, hamp⟩
    simp only [noiseSeed]
    split
    · decide
    · assumption
  | step => exact noiseOk_iff.mpr ⟨lfsrNext_ne_zero hst, hamp⟩

theorem Change.keeps_noisesOk {s t : State} (hp : paramsOk s = true) (h : Change s t) (hs : NoisesOk s) :
    NoisesOk t := by
  obtain ⟨-, -, -, hnv⟩ := paramsOk_iff.mp hp
  intro w hw
  obtain ⟨v, hv, hc⟩ := h.voices w hw
  exact hc.noise.keeps_noiseOk hnv (hs v hv)

/-- Settles O58: a zero seed is replaced, and a shift of a word that is not 0 is not 0. -/
theorem stepKeepsNoiseAlive : Obligations.StepKeepsNoiseAlive :=
  fun _ _ hp hs h => step_keeps_of_paramsOk Change.keeps_noisesOk hp hs h

/-! ## The panel -/

theorem panelReset_scaledOf (p : Param) : panelReset.scaledOf p = scale p (panelReset.rawOf p) := by
  cases p <;> rfl

theorem PanelChange.keeps_scaling {P P' : Panel} (h : PanelChange P P')
    (hP : ∀ p, P.scaledOf p = scale p (P.rawOf p)) (q : Param) : P'.scaledOf q = scale q (P'.rawOf q) := by
  cases h with
  | same => exact hP q
  | reset => exact panelReset_scaledOf q
  | write p r =>
    by_cases e : q = p
    · rw [e, Panel.write_rawOf_self, Panel.write_scaledOf_self]
    · rw [Panel.write_rawOf_other _ r e, Panel.write_scaledOf_other _ r e, hP]

/-- Settles O53: raw and scaled values are only written together. -/
theorem stepKeepsPanelConsistent : Obligations.StepKeepsPanelConsistent :=
  fun _ _ hs h => step_keeps (fun hc => hc.panel.keeps_scaling) hs h

end Sys2Proof.Machine
end

section
/-! Every step keeps the PB_TRI integrator bounded (R34, R162) and the signals finite (R45), and the power-on
state meets the invariants (R470). -/

namespace Sys2Proof.Machine

open Sys2Proof.Safety

/-! ## The PolyBLEP correction (R165) -/

/-- The fraction of a cycle is exact (R141). -/
theorem valIn_frac24 (a : Word) :
    ValIn ((a.toNat / 256 : ℕ) / 2 ^ 24) ((a.toNat / 256 : ℕ) / 2 ^ 24) (frac24 a) := by
  have hk : a.toNat / 256 ≤ 2 ^ 24 := by have := a.isLt; omega
  have hv := isValue_natCast_div hk (e := 24) (by decide)
  have hi := valIn_i2f (n := (a.toNat / 256 : ℕ)) (by rw [Nat.abs_cast]; exact_mod_cast hk)
  rw [Int.cast_natCast] at hi
  apply valIn_fmul hv hv hi.finite (by decide) <;> rw [hi.eq, val_twoNeg24, mul_one_div]

theorem valIn_unit_frac24 (a : Word) : ValIn 0 1 (frac24 a) := by
  have hk : ((a.toNat / 256 : ℕ) : ℚ) ≤ 2 ^ 24 := by
    have : a.toNat / 256 ≤ 2 ^ 24 := by have := a.isLt; omega
    exact_mod_cast this
  exact (valIn_frac24 a).mono (by positivity) (div_le_one_of_le₀ hk (by positivity))

/-- The correction after an edge, at a distance `s` of it. -/
theorem valIn_blep_after {s : F32} (hs : ValIn 0 1 s) :
    ValIn (-1) 1 (fsub (fsub (fadd s s) (fmul s s)) fOne) := by
  obtain ⟨hsf, hs0, hs1⟩ := hs
  obtain ⟨haf, ha0, ha1⟩ := valIn_fadd (isValue_val hsf) isValue_two hsf hsf (by linarith) (by linarith)
  obtain ⟨hmf, hm0, hm1⟩ := valIn_fmul isValue_zero (isValue_val hsf) hsf hsf (by nlinarith) (by nlinarith)
  obtain ⟨hbf, hb0, hb1⟩ := valIn_fsub isValue_zero isValue_two haf hmf (by linarith) (by linarith)
  exact valIn_fsub isValue_one.neg isValue_one hbf (by decide) (by rw [val_fOne]; linarith)
    (by rw [val_fOne]; linarith)

/-- The correction before an edge, at a distance `-s` of it. -/
theorem valIn_blep_before {s : F32} (hs : ValIn (-1) 0 s) :
    ValIn (-1) 1 (fadd (fadd (fmul s s) (fadd s s)) fOne) := by
  obtain ⟨hsf, hs0, hs1⟩ := hs
  obtain ⟨hmf, hm0, hm1⟩ := valIn_fmul isValue_zero (isValue_val hsf).neg hsf hsf (by nlinarith) (by nlinarith)
  obtain ⟨haf, ha0, ha1⟩ := valIn_fadd isValue_two.neg (isValue_val hsf) hsf hsf (by linarith) (by linarith)
  obtain ⟨hbf, hb0, hb1⟩ := valIn_fadd isValue_two.neg isValue_zero hmf haf (by linarith) (by linarith)
  exact valIn_fadd isValue_one.neg isValue_one hbf (by decide) (by rw [val_fOne]; linarith)
    (by rw [val_fOne]; linarith)

/-- The correction is at most 1 in magnitude at every position and legal increment: a position it corrects is
at most one increment from the edge. -/
theorem valIn_blep {t : F32} (ht : ValIn 0 1 t) {inc : Word} (hinc : inc.toNat ≤ 2 ^ 31) :
    ValIn (-1) 1 (blep t (frac24 inc)) := by
  obtain ⟨htf, ht0, ht1⟩ := ht
  have hk : inc.toNat / 256 ≤ 2 ^ 23 := by omega
  have hd := valIn_frac24 inc
  generalize inc.toNat / 256 = k at hk hd
  have hdf := hd.finite
  have hdv := hd.eq
  generalize frac24 inc = dt at hdf hdv
  unfold blep
  split
  next hlt =>
    rw [flt_iff_val htf hdf] at hlt
    exact valIn_blep_after
      (valIn_fdiv isValue_zero isValue_one htf hdf (by linarith) (by linarith) (by linarith))
  next =>
    have he : IsValue (1 - k / 2 ^ 24) := by
      convert isValue_natCast_div (k := 2 ^ 24 - k) (by omega) (e := 24) (by decide) using 1
      rw [Nat.cast_sub (by omega), sub_div]
      norm_num
    have hedge := valIn_fsub he he (x := fOne) (by decide) hdf (by rw [val_fOne, hdv]) (by rw [val_fOne, hdv])
    split
    next hlt =>
      rw [flt_iff_val hedge.finite htf, hedge.eq, ← hdv] at hlt
      obtain ⟨huf, hu0, hu1⟩ := valIn_fsub (isValue_val hdf).neg isValue_zero htf (y := fOne) (by decide)
        (by rw [val_fOne]; linarith) (by rw [val_fOne]; linarith)
      exact valIn_blep_before
        (valIn_fdiv isValue_one.neg isValue_zero huf hdf (by linarith) (by linarith) (by linarith))
    next => exact ⟨by decide, by rw [val_fZero]; norm_num, by rw [val_fZero]; norm_num⟩

/-! ## The PB_TRI integrator (R162) -/

theorem valIn_fmul_abs {b p q : ℚ} (hb : IsValue b) {x y : F32} (hx : ValIn (-p) p x) (hy : ValIn (-q) q y)
    (h : p * q ≤ b) : ValIn (-b) b (fmul x y) := by
  have hxa := abs_le.mpr ⟨hx.le, hx.ge⟩
  have hya := abs_le.mpr ⟨hy.le, hy.ge⟩
  have habs : |val x * val y| ≤ b := by
    rw [abs_mul]
    exact (mul_le_mul hxa hya (abs_nonneg _) ((abs_nonneg _).trans hxa)).trans h
  obtain ⟨h1, h2⟩ := abs_le.mp habs
  exact valIn_fmul hb.neg hb hx.finite hy.finite h1 h2

/-- A number of [0, 1] rounded up to a multiple of 2^-24, itself a value as are its small multiples. -/
theorem exists_value_above {q : ℚ} (h0 : 0 ≤ q) (h1 : q ≤ 1) :
    ∃ b, q ≤ b ∧ b < q + 1 / 2 ^ 24 ∧ ∀ j ≤ 24, IsValue (2 ^ j * b) := by
  have hle := Nat.le_ceil (q * 2 ^ 24)
  have hlt := Nat.ceil_lt_add_one (a := q * 2 ^ 24) (by positivity)
  have hn : ⌈q * 2 ^ 24⌉₊ ≤ 2 ^ 24 := Nat.ceil_le.mpr (by push_cast; linarith)
  generalize ⌈q * 2 ^ 24⌉₊ = n at hle hlt hn
  refine ⟨n / 2 ^ 24, by linarith, by linarith, fun j hj => ?_⟩
  have h24 : (2 : ℚ) ^ 24 = 2 ^ j * 2 ^ (24 - j) := by rw [← pow_add]; congr 1; omega
  convert isValue_natCast_div hn (e := 24 - j) (by omega) using 1
  rw [h24]
  field_simp

theorem isValue_sixteen : IsValue 16 := ⟨filterStateLimit, by decide, val_filterStateLimit⟩

/-- With a coefficient of 0 the integrator keeps its state. -/
theorem valIn_leak_zero {c sq last : F32} (hc : ValIn 0 0 c) (hsq : finite sq = true)
    (hl : ValIn (-16) 16 last) : ValIn (-16) 16 (fadd (fmul c sq) (fmul (fsub fOne c) last)) := by
  obtain ⟨hlf, hl0, hl1⟩ := hl
  have hin := valIn_fmul isValue_zero isValue_zero hc.finite hsq (by rw [hc.eq, zero_mul])
    (by rw [hc.eq, zero_mul])
  have hr := valIn_fsub isValue_one isValue_one (x := fOne) (by decide) hc.finite
    (by rw [hc.eq, val_fOne, sub_zero]) (by rw [hc.eq, val_fOne, sub_zero])
  have hout := valIn_fmul (isValue_val hlf) (isValue_val hlf) hr.finite hlf (by rw [hr.eq, one_mul])
    (by rw [hr.eq, one_mul])
  apply valIn_fadd isValue_sixteen.neg isValue_sixteen hin.finite hout.finite <;>
    rw [hin.eq, hout.eq, zero_add] <;> assumption

/-- With any other coefficient, which is at least 2^-22, what the leak takes from the bound is more than what
is let in and the roundings add, `c` and `1 − c` each being held below a multiple of 2^-24. -/
theorem valIn_leak_pos {c sq last : F32} (hc : ValIn (1 / 2 ^ 22) 1 c) (hsq : ValIn (-3) 3 sq)
    (hl : ValIn (-16) 16 last) : ValIn (-16) 16 (fadd (fmul c sq) (fmul (fsub fOne c) last)) := by
  obtain ⟨hcf, hc0, hc1⟩ := hc
  obtain ⟨b, hb, hb', hbv⟩ := exists_value_above (q := val c) (by linarith) hc1
  obtain ⟨d, hd, hd', hdv⟩ := exists_value_above (q := 1 - val c) (by linarith) (by linarith)
  have hr : ValIn 0 (2 ^ 0 * d) (fsub fOne c) :=
    valIn_fsub isValue_zero (hdv 0 (by decide)) (by decide) hcf (by rw [val_fOne]; linarith)
      (by rw [val_fOne]; linarith)
  obtain ⟨hif, hi0, hi1⟩ := valIn_fmul_abs (hbv 2 (by decide)) (p := val c) ⟨hcf, by linarith, le_rfl⟩ hsq
    (by linarith)
  obtain ⟨hof, ho0, ho1⟩ := valIn_fmul_abs (hdv 4 (by decide)) (hr.mono (by linarith) le_rfl) hl (by linarith)
  exact valIn_fadd isValue_sixteen.neg isValue_sixteen hif hof (by linarith) (by linarith)

/-- The coefficient of the integrator is 0, or at least that of the smallest increment that counts. -/
theorem valIn_leakCoef {inc : Word} (hinc : inc.toNat ≤ 2 ^ 31) :
    ValIn 0 0 (fmin (fmul (frac24 inc) twoPi32) fOne) ∨
      ValIn (1 / 2 ^ 22) 1 (fmin (fmul (frac24 inc) twoPi32) fOne) := by
  have hone : ValIn 1 1 fOne := ⟨by decide, val_fOne.ge, val_fOne.le⟩
  have hk : inc.toNat / 256 ≤ 2 ^ 23 := by omega
  have hd := valIn_frac24 inc
  generalize inc.toNat / 256 = k at hk hd
  obtain rfl | hpos := k.eq_zero_or_pos
  · left
    have hq := valIn_fmul isValue_zero isValue_zero hd.finite (y := twoPi32) (by decide)
      (by rw [hd.eq]; norm_num) (by rw [hd.eq]; norm_num)
    exact (valIn_fmin hq hone).mono (by norm_num) (by norm_num)
  · right
    have h1 : (1 : ℚ) ≤ k := by exact_mod_cast hpos
    have h2 : (k : ℚ) ≤ 2 ^ 23 := by exact_mod_cast hk
    have hq := valIn_fmul ⟨twoNeg22, by decide, val_twoNeg22⟩ ⟨fFour, by decide, val_fFour⟩ hd.finite
      (y := twoPi32) (by decide) (by rw [hd.eq, val_twoPi32]; linarith) (by rw [hd.eq, val_twoPi32]; linarith)
    exact (valIn_fmin hq hone).mono (by norm_num) (by norm_num)

theorem inFilterRange_iff {x : F32} : inFilterRange x = true ↔ ValIn (-16) 16 x := by
  have hneg : val 0xC1800000#32 = -16 := val_of_fint (n := -2 ^ 153) (by decide) (by norm_num)
  rw [inFilterRange, within_iff_valIn (by decide) (by decide), hneg, ← val_filterStateLimit]
  rfl

theorem inFilterRange_wavePbTri {acc inc : Word} (hinc : inc.toNat ≤ 2 ^ 31) {last : F32}
    (hl : inFilterRange last = true) :
    inFilterRange (wavePbTri acc (frac24 acc) (frac24 inc) last) = true := by
  have h3 : IsValue 3 := by exact_mod_cast isValue_intCast (k := 3) (by norm_num)
  have hsq : ValIn (-1) 1 (if flt (frac24 acc) fHalf then fOne else fNegOne) := by
    split
    · exact ⟨by decide, by rw [val_fOne]; norm_num, val_fOne.le⟩
    · exact ⟨by decide, val_fNegOne.ge, by rw [val_fNegOne]; norm_num⟩
  have hb1 := valIn_blep (valIn_unit_frac24 acc) hinc
  have hb2 := valIn_blep (valIn_unit_frac24 (acc + 0x80000000#32)) hinc
  have hsq1 := valIn_fadd isValue_two.neg isValue_two hsq.finite hb1.finite (by linarith [hsq.le, hb1.le])
    (by linarith [hsq.ge, hb1.ge])
  have hsq2 := valIn_fsub h3.neg h3 hsq1.finite hb2.finite (by linarith [hsq1.le, hb2.ge])
    (by linarith [hsq1.ge, hb2.le])
  rw [inFilterRange_iff] at hl ⊢
  obtain hc | hc := valIn_leakCoef hinc
  · exact valIn_leak_zero hc hsq2.finite hl
  · exact valIn_leak_pos hc hsq2 hl

/-- Only PB_TRI writes `O.last` (R153). -/
theorem inFilterRange_wave {o : Osc} (hinc : o.inc.toNat ≤ 2 ^ 31) (hl : inFilterRange o.last = true)
    (pwe : F32) : inFilterRange (wave o (frac24 o.acc) (frac24 o.inc) pwe).2 = true := by
  cases hw : o.wave with
  | pbTri =>
    simp only [wave, hw]
    exact inFilterRange_wavePbTri hinc hl
  | _ =>
    simp only [wave, hw]
    exact hl

theorem inFilterRange_oscStep_last {o : Osc} (hinc : o.inc.toNat ≤ 2 ^ 31) (hl : inFilterRange o.last = true)
    (fm pwm : F32) (rst : Bool) : inFilterRange (oscStep o fm pwm rst).1.last = true := by
  cases rst
  · exact inFilterRange_wave (o := o) hinc hl _
  · exact inFilterRange_wave (o := zeroPhase o) hinc hl _

theorem OscChange.keeps_integratorOk {sr : ℕ} {o o' : Osc} (h : OscChange sr o o') (ho : oscOk o = true)
    (hl : integratorOk o = true) : integratorOk o' = true := by
  cases h with
  | same | wave | phase | restart | freq | amp | pw => exact hl
  | voiceReset | lfoReset => decide
  | step fm pwm rst => exact inFilterRange_oscStep_last (oscOk_iff.mp ho).1 hl fm pwm rst

theorem Change.keeps_integratorsOk {s t : State} (h : Change s t) (ho : OscsOk s) (hs : IntegratorsOk s) :
    IntegratorsOk t := by
  obtain ⟨holfo, hov⟩ := ho
  obtain ⟨hlfo, hvs⟩ := hs
  refine ⟨h.lfo.keeps_integratorOk holfo hlfo, fun w hw => ?_⟩
  obtain ⟨v, hv, hc⟩ := h.voices w hw
  exact ⟨hc.osc0.keeps_integratorOk (hov v hv).1 (hvs v hv).1,
    hc.osc1.keeps_integratorOk (hov v hv).2 (hvs v hv).2⟩

/-- Settles O55: only PB_TRI writes an integrator, and the leak keeps it bounded at every legal increment. -/
theorem stepKeepsIntegratorsBounded : Obligations.StepKeepsIntegratorsBounded := fun _ _ hp ho hs h =>
  (step_keeps_of_paramsOk (I := fun u => OscsOk u ∧ IntegratorsOk u)
    (fun hpu hc hu => ⟨hc.keeps_oscsOk hpu hu.1, hc.keeps_integratorsOk hu.1 hu.2⟩) hp ⟨ho, hs⟩ h).2

/-! ## Signals -/

theorem within_one_iff {x : F32} : within 0xBF800000#32 0x3F800000#32 x = true ↔ ValIn (-1) 1 x := by
  rw [within_iff_valIn (by decide) (by decide), ← val_fNegOne, ← val_fOne]
  rfl

/-- A sample is a clamped waveform times an amplitude (R154). -/
theorem within_oscStep {o : Osc} (ha : inUnit o.amp = true) (fm pwm : F32) (rst : Bool) :
    within 0xBF800000#32 0x3F800000#32 (oscStep o fm pwm rst).2 = true := by
  have hamp : ValIn (-1) 1 o.amp := (inUnit_iff.mp ha).mono (by norm_num) le_rfl
  have hmul : ∀ x, within 0xBF800000#32 0x3F800000#32 (fmul (clampf x fNegOne fOne) o.amp) = true := fun x =>
    within_one_iff.mpr (valIn_fmul_abs isValue_one (within_one_iff.mp (within_clampf x (by decide))) hamp
      (by norm_num))
  cases rst <;> exact hmul _

/-- The frequency of every note is a number (R304). -/
theorem finite_mtof (n : Raw) : finite (mtof n.toNat) = true := by
  have h : ∀ k < 128, finite (mtof k) = true := by decide +kernel
  exact h _ n.isLt

theorem OscChange.keeps_inUnit_amp {sr : ℕ} {o o' : Osc} (h : OscChange sr o o') (ha : inUnit o.amp = true) :
    inUnit o'.amp = true := by
  cases h with
  | same | wave | phase | restart | freq | pw => exact ha
  | voiceReset | lfoReset => decide
  | amp a => exact inUnit_clampUnit a
  | step fm pwm rst =>
    rw [(oscStep_settings o fm pwm rst).2.1]
    exact ha

theorem LfoLastChange.keeps_within {o : Osc} {x y : F32} (h : LfoLastChange o x y) (ha : inUnit o.amp = true)
    (hx : within 0xBF800000#32 0x3F800000#32 x = true) : within 0xBF800000#32 0x3F800000#32 y = true := by
  cases h with
  | same => exact hx
  | reset => decide
  | tick => exact within_oscStep ha _ _ _

theorem FnoteChange.keeps_finite {x y : F32} (h : FnoteChange x y) (hx : finite x = true) : finite y = true := by
  cases h with
  | same => exact hx
  | reset => decide
  | note n => exact finite_mtof n

theorem Change.keeps_signalsOk {s t : State} (h : Change s t) (ha : inUnit s.lfo.amp = true)
    (hs : SignalsOk s) : SignalsOk t := by
  obtain ⟨hlast, hvs⟩ := hs
  refine ⟨h.lfoLast.keeps_within ha hlast, fun w hw => ?_⟩
  obtain ⟨v, hv, hc⟩ := h.voices w hw
  exact hc.fnote.keeps_finite (hvs v hv)

/-- Settles O59: `LFO_LAST` is a sample of the LFO, whose amplitude stays in [0, 1] at any sample rate, and
`fnote` is an entry of the note table. -/
theorem stepKeepsSignalsFinite : Obligations.StepKeepsSignalsFinite := fun _ _ ho hs h =>
  (step_keeps (I := fun u => inUnit u.lfo.amp = true ∧ SignalsOk u)
    (fun hc hu => ⟨hc.lfo.keeps_inUnit_amp hu.1, hc.keeps_signalsOk hu.1 hu.2⟩)
    ⟨(oscOk_iff.mp ho.1).2.1, hs⟩ h).2

/-! ## Power-on (R470) -/

theorem forall_voicesReset {sr nv : ℕ} {p : Voice → Prop} (h : ∀ v < nv, p (voiceReset sr v)) :
    ∀ w ∈ voicesReset sr nv, p w := by
  intro w hw
  obtain ⟨v, hv, rfl⟩ := List.mem_map.mp hw
  exact h v (List.mem_range.mp hv)

/-- Settles O51: the reset value of every unit is in its range. -/
theorem resetMeetsTheInvariants : Obligations.ResetMeetsTheInvariants := by
  intro c hc
  have hp : paramsOk (State.resetFor c) = true := by rw [paramsOk, State.resetFor_config]; exact hc
  obtain ⟨-, hhi, -, hnv⟩ := paramsOk_iff.mp hp
  replace hnv : c.numVoices ≤ 255 := by simpa [State.nv, State.resetFor, voicesReset] using hnv
  have hosc : oscOk voiceOscReset = true := by decide
  have hint : integratorOk voiceOscReset = true := by decide
  have henv : envOk envReset = true := by decide
  have hlfo : oscOk lfoReset = true ∧ integratorOk lfoReset = true := by decide
  have hzero : finite fZero = true ∧ within 0xBF800000#32 0x3F800000#32 fZero = true := by decide
  refine ⟨hp, panelReset_scaledOf, ⟨hlfo.1, ?_⟩, ⟨hlfo.2, ?_⟩, ?_, ?_, ?_, ⟨hzero.2, ?_⟩, rfl⟩ <;>
    refine forall_voicesReset fun v hv => ?_
  · exact ⟨hosc, hosc⟩
  · exact ⟨hint, hint⟩
  · exact ⟨henv, henv⟩
  · exact ⟨ladderOk_reset hhi, svfOk_reset hhi⟩
  · exact noiseOk_reset (by omega)
  · exact hzero.1

end Sys2Proof.Machine
end

section
/-! How a step takes its command from the stream (R31, R111, R112, R424). -/

namespace Sys2Proof.Machine

open Sys2Proof.Safety

/-! ## What is decoded is at the front -/

/-- Whatever is decoded, the words after it are what is left when its own words are dropped (R112). -/
theorem decode_command {ws rest : List Word} {i : Instr} (h : decode ws = .command i rest) :
    ∃ hd tl, ws = hd :: tl ∧ Op.ofByte (opField hd) = some i.op ∧ i.op.pay ≤ tl.length ∧
      rest = tl.drop i.op.pay := by
  cases ws with
  | nil => cases h
  | cons hd tl =>
    simp only [decode] at h
    split at h
    next => cases h
    next op hop =>
      split at h
      next => cases h
      next hlen =>
        cases h
        rw [op_build]
        exact ⟨hd, tl, rfl, hop, by omega, rfl⟩

theorem decode_undefined {ws rest : List Word} {b : Byte} (h : decode ws = .undefinedOpcode b rest) :
    ∃ hd, ws = hd :: rest ∧ Op.ofByte (opField hd) = none := by
  cases ws with
  | nil => cases h
  | cons hd tl =>
    simp only [decode] at h
    split at h
    next hop => cases h; exact ⟨hd, rfl, hop⟩
    next => split at h <;> cases h

/-! ## The step by what is decoded -/

theorem step_of_empty {s : State} (h : decode s.window = .empty) : step s = .next s := by
  simp only [step, fetch, h]

theorem step_of_command {s : State} {i : Instr} {rest : List Word} (h : decode s.window = .command i rest) :
    step s = exec i (s.consumeTo rest) := by
  simp only [step, fetch, h]

theorem step_of_undefined {s : State} {b : Byte} {rest : List Word}
    (h : decode s.window = .undefinedOpcode b rest) : step s = .next (s.consumeTo rest) := by
  simp only [step, fetch, h]

theorem step_of_incomplete {s : State} {op : Op} {n : ℕ} (h : decode s.window = .incomplete op n) :
    step s = .next s.holdPartial := by
  simp only [step, fetch, h]

/-- Settles O4: consuming down to the words after the command is dropping its own. -/
theorem stepRunsDecodedCommand : Obligations.StepRunsDecodedCommand := by
  refine ⟨fun s i rest hp h => ?_, fun s i rest h => step_of_command h⟩
  have hw : s.window = s.stream := by rw [State.window, hp, List.nil_append]
  obtain ⟨hd, tl, hs, -, hlen, hrest⟩ := decode_command h
  have hcount : s.stream.length - rest.length = 1 + i.op.pay := by
    rw [hs, hrest, List.length_cons, List.length_drop]
    omega
  rw [step_of_command (hw ▸ h), State.consumeTo, hcount, ← hp]

/-! ## What a command leaves alone -/

/-- No command touches `CPOS`, the stream or the held words. -/
theorem exec_stream (i : Instr) {s t : State} (h : exec i s = .next t) :
    t.cpos = s.cpos ∧ t.stream = s.stream ∧ t.partialCmd = s.partialCmd := by
  cases i with
  | nop | noteOff | reset => cases h; exact ⟨rfl, rfl, rfl⟩
  | noteOn note vel =>
    simp only [exec, execNoteOn] at h
    split at h <;> cases h <;> exact ⟨rfl, rfl, rfl⟩
  | controlChange id value =>
    simp only [exec, execControlChange] at h
    split at h <;> cases h <;> exact ⟨rfl, rfl, rfl⟩
  | readParam id =>
    simp only [exec, execReadParam] at h
    split at h <;> cases h <;> exact ⟨rfl, rfl, rfl⟩
  | render count =>
    cases h; exact ⟨renderSamples_cpos _ _, renderSamples_stream _ _, renderSamples_partialCmd _ _⟩
  | oscSetFreq | oscSetWaveform | oscSetAmp | oscSetPw | oscPhaseAdd | oscReset | oscProcess
  | oscProcessMod | oscRead =>
    cases h; exact ⟨onOsc_cpos _ _ _ _ _, onOsc_stream _ _ _ _ _, onOsc_partialCmd _ _ _ _ _⟩
  | envSetAttack | envSetDecay | envSetSustain | envSetRelease | envSetGate | envProcess | envRead =>
    cases h; exact ⟨onEnv_cpos _ _ _ _ _, onEnv_stream _ _ _ _ _, onEnv_partialCmd _ _ _ _ _⟩
  | fltSetFreq | fltSetRes | fltProcess | fltProcessMod | fltRead =>
    cases h; exact ⟨onFilter_cpos _ _ _ _ _ _, onFilter_stream _ _ _ _ _ _, onFilter_partialCmd _ _ _ _ _ _⟩
  | noiseSetAmp | noiseSeed | noiseProcess | noiseRead =>
    cases h; exact ⟨onNoise_cpos _ _ _ _, onNoise_stream _ _ _ _, onNoise_partialCmd _ _ _ _⟩
  | readVoice | voiceNoteOn | voiceNoteOff | voiceProcess =>
    cases h; exact ⟨onVoice_cpos _ _ _ _, onVoice_stream _ _ _ _, onVoice_partialCmd _ _ _ _⟩

/-! ## What a step takes -/

/-- Held words are a defined header and fewer payload words than it asks for (R424). -/
theorem pendingOk_cases {s : State} (h : pendingOk s = true) :
    s.partialCmd = [] ∨ ∃ hd ps op, s.partialCmd = hd :: ps ∧ Op.ofByte (opField hd) = some op ∧
      ps.length < op.pay := by
  unfold pendingOk at h
  split at h
  next hp => exact .inl hp
  next hd ps hp =>
    split at h
    next => cases h
    next op hop => exact .inr ⟨hd, ps, op, hp, hop, of_decide_eq_true h⟩

/-- The words of a whole command reach beyond the held ones, so what is left is left of the stream. -/
theorem drop_of_command {s : State} (hp : pendingOk s = true) {i : Instr} {rest : List Word}
    (h : decode s.window = .command i rest) :
    ∃ n, 0 < n ∧ n ≤ s.stream.length ∧ rest = s.stream.drop n := by
  obtain ⟨hd, tl, hw, hop, hlen, rfl⟩ := decode_command h
  obtain hnil | ⟨hd', ps, op, hpc, hop', hlt⟩ := pendingOk_cases hp
  · rw [State.window, hnil, List.nil_append] at hw
    refine ⟨i.op.pay + 1, by omega, ?_, ?_⟩
    · rw [hw, List.length_cons]
      omega
    · rw [hw, List.drop_succ_cons]
  · rw [State.window, hpc, List.cons_append] at hw
    obtain ⟨rfl, rfl⟩ := List.cons.inj hw
    obtain rfl := Option.some.inj (hop'.symm.trans hop)
    rw [List.length_append] at hlen
    exact ⟨i.op.pay - ps.length, by omega, by omega, by rw [List.drop_append, List.drop_eq_nil_of_le hlt.le,
      List.nil_append]⟩

/-- An undefined header is the first word of the stream, none being held. -/
theorem stream_of_undefined {s : State} (hp : pendingOk s = true) {b : Byte} {rest : List Word}
    (h : decode s.window = .undefinedOpcode b rest) : ∃ hd, s.stream = hd :: rest := by
  obtain ⟨hd, hw, hop⟩ := decode_undefined h
  obtain hnil | ⟨hd', ps, op, hpc, hop', -⟩ := pendingOk_cases hp
  · exact ⟨hd, by rw [← hw, State.window, hnil, List.nil_append]⟩
  · rw [State.window, hpc, List.cons_append] at hw
    obtain ⟨rfl, -⟩ := List.cons.inj hw
    rw [hop] at hop'
    cases hop'

theorem stream_of_empty {s : State} (h : decode s.window = .empty) : s.stream = [] := by
  have hw : s.window = [] := by
    cases hw : s.window with
    | nil => rfl
    | cons hd tl =>
      rw [hw] at h
      simp only [decode] at h
      split at h
      · cases h
      · split at h <;> cases h
  exact (List.append_eq_nil_iff.mp hw).2

/-- Holding what has arrived changes nothing where nothing has. -/
theorem holdPartial_of_stream_nil {s : State} (h : s.stream = []) : s.holdPartial = s := by
  cases s
  cases h
  simp [State.holdPartial, State.window]

/-- Consuming down to what is left after `n` words counts `n`. -/
theorem consumeTo_drop_cpos (s : State) {n : ℕ} (hn : n ≤ s.stream.length) :
    (s.consumeTo (s.stream.drop n)).cpos = s.cpos + n := by
  rw [State.consumeTo_cpos, List.length_drop]
  omega

theorem step_takes_words {s t : State} (hp : pendingOk s = true) (h : step s = .next t) :
    ∃ n, n ≤ s.stream.length ∧ (s.stream ≠ [] → 0 < n) ∧
      t.cpos = s.cpos + n ∧ t.stream = s.stream.drop n := by
  cases hd : decode s.window with
  | empty =>
    rw [step_of_empty hd] at h
    cases h
    exact ⟨0, by omega, fun hne => absurd (stream_of_empty hd) hne, rfl, rfl⟩
  | command i rest =>
    rw [step_of_command hd] at h
    obtain ⟨hc, hs, -⟩ := exec_stream i h
    obtain ⟨n, h0, hn, rfl⟩ := drop_of_command hp hd
    exact ⟨n, hn, fun _ => h0, hc.trans (consumeTo_drop_cpos s hn), hs⟩
  | undefinedOpcode b rest =>
    rw [step_of_undefined hd] at h
    cases h
    obtain ⟨w, hs⟩ := stream_of_undefined hp hd
    have hrest : rest = s.stream.drop 1 := by rw [hs]; rfl
    have h1 : 1 ≤ s.stream.length := by rw [hs]; simp
    exact ⟨1, h1, fun _ => one_pos, by rw [hrest, consumeTo_drop_cpos s h1], hrest⟩
  | incomplete op k =>
    rw [step_of_incomplete hd] at h
    cases h
    exact ⟨s.stream.length, le_rfl, List.length_pos_iff.mpr, rfl, List.drop_length.symm⟩

/-- With no word waiting there is nothing to take: a whole command or an undefined header would be of the
held words alone. -/
theorem step_of_stream_nil {s : State} (hp : pendingOk s = true) (h : s.stream = []) : step s = .next s := by
  cases hd : decode s.window with
  | empty => exact step_of_empty hd
  | command i rest =>
    obtain ⟨n, h0, hn, -⟩ := drop_of_command hp hd
    rw [h, List.length_nil] at hn
    omega
  | undefinedOpcode b rest =>
    obtain ⟨w, hs⟩ := stream_of_undefined hp hd
    rw [h] at hs
    cases hs
  | incomplete op k => rw [step_of_incomplete hd, holdPartial_of_stream_nil h]

/-- Settles O9: the words taken are counted by what is decoded, and no command touches them. -/
theorem commandPositionOnlyAdvances : Obligations.CommandPositionOnlyAdvances :=
  ⟨fun _ _ hp h => step_takes_words hp h, fun i _ _ h => exec_stream i h, fun _ hp h => step_of_stream_nil hp h⟩

end Sys2Proof.Machine
end

section
/-! Words on a byte channel (R91, R92): a word is regained from its bytes, and `deserialise` of bytes that
arrive in two parts goes on from the bytes the first part leaves held. -/

namespace Sys2Proof

/-! ## A word and its four bytes -/

/-- The bytes of a word as numbers; the last needs no reduction, a word being below `2 ^ 32`. -/
theorem wordBytes_eq_ofNat (w : Word) : wordBytes w =
    [BitVec.ofNat 8 (w.toNat % 256), BitVec.ofNat 8 (w.toNat / 2 ^ 8 % 256),
      BitVec.ofNat 8 (w.toNat / 2 ^ 16 % 256), BitVec.ofNat 8 (w.toNat / 2 ^ 24)] := by
  simp [wordBytes, ← BitVec.toNat_inj, Nat.shiftRight_eq_div_pow]

/-- A word made of its own bytes is that word: four bytes are laid out as a header's four fields. -/
theorem bytesWord_fields (w : Word) :
    bytesWord (field w 0 8) (field w 8 8) (field w 16 8) (field w 24 8) = w := by
  have hheader (b0 b1 b2 b3 : Byte) : bytesWord b0 b1 b2 b3 = header b3 b2 b1 b0 := rfl
  apply BitVec.eq_of_toNat_eq
  have := w.isLt
  rw [hheader, header_toNat]
  simp only [field_toNat]
  omega

@[simp] theorem serialise_cons (w : Word) (ws : List Word) :
    serialise (w :: ws) = wordBytes w ++ serialise ws := List.flatMap_cons

/-! ## Reading bytes back -/

@[simp] theorem deserialise_four (b0 b1 b2 b3 : Byte) (bs : List Byte) :
    deserialise (b0 :: b1 :: b2 :: b3 :: bs) =
      (bytesWord b0 b1 b2 b3 :: (deserialise bs).1, (deserialise bs).2) := by
  rw [deserialise]

/-- The four bytes of a word, with others after them, give that word first. -/
@[simp] theorem deserialise_wordBytes_append (w : Word) (bs : List Byte) :
    deserialise (wordBytes w ++ bs) = (w :: (deserialise bs).1, (deserialise bs).2) := by
  simp only [wordBytes, List.cons_append, List.nil_append, deserialise_four, bytesWord_fields]

/-- Fewer than four bytes make no word and are all held. -/
theorem deserialise_of_length_lt {bs : List Byte} (h : bs.length < 4) : deserialise bs = ([], bs) := by
  fun_cases deserialise bs with
  | case1 => simp only [List.length_cons] at h; omega
  | case2 => rfl

/-- The bytes of whole words give those words, whatever bytes come after them. -/
theorem deserialise_serialise_append (ws : List Word) (bs : List Byte) :
    deserialise (serialise ws ++ bs) = (ws ++ (deserialise bs).1, (deserialise bs).2) := by
  induction ws with
  | nil => rfl
  | cons w ws ih =>
    rw [serialise_cons, List.append_assoc, deserialise_wordBytes_append, ih, List.cons_append]

/-- Reading two parts at once is reading the first, then the second after the bytes it leaves held. -/
theorem deserialise_append (xs ys : List Byte) :
    deserialise (xs ++ ys) =
      ((deserialise xs).1 ++ (deserialise ((deserialise xs).2 ++ ys)).1,
        (deserialise ((deserialise xs).2 ++ ys)).2) := by
  induction xs using deserialise.induct with
  | case1 b0 b1 b2 b3 bs ih => simp only [List.cons_append, deserialise_four, ih]
  | case2 bs hshort => simp only [deserialise, List.nil_append]

end Sys2Proof

/-! ## Bytes arriving at the core -/

namespace Sys2Proof.Machine

/-- Bytes fed in two parts are the bytes fed at once. -/
theorem State.feedBytes_feedBytes (s : State) (held xs ys : List Byte) :
    (s.feedBytes held xs).1.feedBytes (s.feedBytes held xs).2 ys = s.feedBytes held (xs ++ ys) := by
  simp only [State.feedBytes, State.feed_feed, ← List.append_assoc held, deserialise_append (held ++ xs)]

/-- Settles O7: each word is regained from its bytes, and `deserialise` goes on from the held bytes. -/
theorem byteChannelCarriesWords : Obligations.ByteChannelCarriesWords := by
  refine ⟨fun ws => ?_, fun ws bs hbs => ?_, State.feedBytes_feedBytes⟩
  · exact List.flatMap_congr fun w _ => wordBytes_eq_ofNat w
  · rw [deserialise_serialise_append, deserialise_of_length_lt hbs, List.append_nil]

end Sys2Proof.Machine
end

section
/-! Decoding against encoding (R110, R112, R114): the words of a command decode to it, and words that arrive
after a whole command do not change what is decoded. -/

namespace Sys2Proof

/-! ## What a header and its payload decode to -/

/-- The command of a defined header depends only on the payload words its opcode has (R112). -/
theorem Op.build_congr {op : Op} (h : Word) {p0 p1 q0 q1 : Word} (h0 : 0 < op.pay → p0 = q0)
    (h1 : 1 < op.pay → p1 = q1) : op.build h p0 p1 = op.build h q0 q1 := by
  cases op with
  | oscProcessMod | fltProcessMod => rw [h0 (by decide), h1 (by decide)]
  | oscSetFreq | oscSetAmp | oscSetPw | oscPhaseAdd | envSetAttack | envSetDecay | envSetSustain
  | envSetRelease | fltSetFreq | fltSetRes | fltProcess | noiseSetAmp | noiseSeed =>
    rw [h0 (by decide)]; rfl
  | _ => rfl

theorem decode_of_pay_le {h : Word} {tl : List Word} {op : Op} (hop : Op.ofByte (opField h) = some op)
    (hlen : op.pay ≤ tl.length) :
    decode (h :: tl) = .command (op.build h (tl.getD 0 0#32) (tl.getD 1 0#32)) (tl.drop op.pay) := by
  simp only [decode, hop, Nat.not_lt.mpr hlen, if_false]

theorem decode_of_lt_pay {hd : Word} {tl : List Word} {op : Op} (hop : Op.ofByte (opField hd) = some op)
    (hlen : tl.length < op.pay) : decode (hd :: tl) = .incomplete op (op.pay - tl.length) := by
  simp only [decode, hop, hlen, if_true]

theorem eq_nil_of_decode_empty {ws : List Word} (h : decode ws = .empty) : ws = [] := by
  cases ws with
  | nil => rfl
  | cons hd tl =>
    simp only [decode] at h
    split at h
    · cases h
    · split at h <;> cases h

theorem decode_incomplete {ws : List Word} {op : Op} {n : ℕ} (h : decode ws = .incomplete op n) :
    ∃ hd tl, ws = hd :: tl ∧ Op.ofByte (opField hd) = some op ∧ tl.length < op.pay := by
  cases ws with
  | nil => cases h
  | cons hd tl =>
    simp only [decode] at h
    split at h
    next => cases h
    next hop =>
      split at h
      next hlt => cases h; exact ⟨hd, tl, rfl, hop, hlt⟩
      next => cases h

/-! ## More words after those decoded -/

/-- Words after a whole command stay after it. -/
theorem decode_append_of_command {ws rest : List Word} {i : Instr} (h : decode ws = .command i rest)
    (more : List Word) : decode (ws ++ more) = .command i (rest ++ more) := by
  obtain ⟨hd, tl, rfl, hop, hlen, -⟩ := Machine.decode_command h
  rw [decode_of_pay_le hop hlen] at h
  obtain ⟨hi, hrest⟩ := Decoded.command.inj h
  have hget {k : ℕ} (hk : k < i.op.pay) : (tl ++ more).getD k 0#32 = tl.getD k 0#32 :=
    List.getD_append _ _ _ _ (by omega)
  rw [List.cons_append, decode_of_pay_le hop (by rw [List.length_append]; omega), Op.build_congr hd hget hget, hi,
    List.drop_append_of_le_length hlen, hrest]

/-- Words after an undefined header stay after it. -/
theorem decode_append_of_undefined {ws rest : List Word} {b : Byte} (h : decode ws = .undefinedOpcode b rest)
    (more : List Word) : decode (ws ++ more) = .undefinedOpcode b (rest ++ more) := by
  obtain ⟨hd, rfl, hop⟩ := Machine.decode_undefined h
  simp only [List.cons_append, decode, hop] at h ⊢
  cases h
  rfl

/-! ## Encoded commands -/

section
open Laws.EncodingShape

/-- The words of every command are one header of its opcode and as many payload words as that has. -/
theorem encode_shape : ∀ i : Instr, Statement i
  | .nop => nop
  | .noteOn n v => noteOn n v
  | .noteOff n v => noteOff n v
  | .controlChange i v => controlChange i v
  | .render n => render n
  | .readParam i => readParam i
  | .readVoice t => readVoice t
  | .reset => reset
  | .oscSetFreq t a x => oscSetFreq t a x
  | .oscSetWaveform t a c => oscSetWaveform t a c
  | .oscSetAmp t a x => oscSetAmp t a x
  | .oscSetPw t a x => oscSetPw t a x
  | .oscPhaseAdd t a x => oscPhaseAdd t a x
  | .oscReset t a => oscReset t a
  | .oscProcess t a => oscProcess t a
  | .oscProcessMod t a r x y => oscProcessMod t a r x y
  | .oscRead t a => oscRead t a
  | .envSetAttack t a x => envSetAttack t a x
  | .envSetDecay t a x => envSetDecay t a x
  | .envSetSustain t a x => envSetSustain t a x
  | .envSetRelease t a x => envSetRelease t a x
  | .envSetGate t a g => envSetGate t a g
  | .envProcess t a g => envProcess t a g
  | .envRead t a => envRead t a
  | .fltSetFreq t a x => fltSetFreq t a x
  | .fltSetRes t a x => fltSetRes t a x
  | .fltProcess t a x => fltProcess t a x
  | .fltProcessMod t a x y => fltProcessMod t a x y
  | .fltRead t a => fltRead t a
  | .noiseSetAmp t x => noiseSetAmp t x
  | .noiseSeed t x => noiseSeed t x
  | .noiseProcess t => noiseProcess t
  | .noiseRead t => noiseRead t
  | .voiceNoteOn t n v => voiceNoteOn t n v
  | .voiceNoteOff t => voiceNoteOff t
  | .voiceProcess t => voiceProcess t

end

/-- The fields of an encoded command's header and its payload words are its operands (R110). -/
theorem build_encode {i : Instr} {h : Word} {ps : List Word} (he : encode i = h :: ps) :
    i.op.build h (ps.getD 0 0#32) (ps.getD 1 0#32) = i := by
  cases i with
  | render n => cases he; exact congrArg Instr.render (countField_header _ _ n)
  | oscProcessMod | envSetGate | envProcess => 
    cases he
    simp only [Instr.op, Op.build, tgtField_header, aField_header, bField_header, boolByte_bit,
      List.getD_cons_zero, List.getD_cons_succ]
  | _ => cases he; simp [Instr.op, Op.build]

theorem decode_encode (i : Instr) : decode (encode i) = .command i [] := by
  obtain ⟨h, ps, he, hop, hlen⟩ := encode_shape i
  rw [he, decode_of_pay_le hop hlen.ge, build_encode he, List.drop_eq_nil_of_le hlen.le]

/-- Settles O2: an encoded command decodes to itself, and the words after it stay after it. -/
theorem decodeEncodeRoundTrip : Obligations.DecodeEncodeRoundTrip := fun i rest => by
  rw [decode_append_of_command (decode_encode i), List.nil_append]

/-- Settles O1: the sixteen examples of R124 are fixed words, and `decode` computes. -/
theorem specEncodingExamplesDecode : Obligations.SpecEncodingExamplesDecode := by
  unfold Obligations.SpecEncodingExamplesDecode
  decide

end Sys2Proof
end

section
/-! What a command with a target can do, said once (R116 to R121): answer for an invalid target, or replace one
voice or the LFO and answer the words of its opcode. -/

namespace Sys2Proof.Machine

open Sys2Proof.Safety

/-- What a command of opcode `op` with target field `tgt` makes of the state. -/
inductive TargetEffect (s : State) (op : Op) (tgt : Byte) : State → Prop where
  | invalid : TargetEffect s op tgt (s.invalidTarget op)
  | voice (x : Voice) {ws : List Word} (hws : ws.length = op.resp) :
    TargetEffect s op tgt ((s.setVoice tgt.toNat x).respond ws)
  | lfo (o : Osc) {ws : List Word} (hws : ws.length = op.resp) (htgt : tgt = 0xFF#8) :
    TargetEffect s op tgt ({ s with lfo := o }.respond ws)

/-! ## The shared operations -/

section SharedOperations
variable {s : State} {op : Op} {tgt a : Byte}

theorem targetEffect_onVoice {f : Voice → Voice × List Word} (hf : ∀ x, (f x).2.length = op.resp) :
    TargetEffect s op tgt (onVoice s op tgt f) := by
  cases hv : voiceTargetValid s.nv tgt with
  | false => rw [onVoice_invalid f hv]; exact .invalid
  | true =>
    obtain ⟨v, put, h⟩ := exists_voiceAt hv
    rw [onVoice_at f h]
    obtain ⟨-, rfl⟩ := h
    exact .voice _ (hf v)

theorem targetEffect_onNoise {f : Noise → Noise × List Word} (hf : ∀ n, (f n).2.length = op.resp) :
    TargetEffect s op tgt (onNoise s op tgt f) :=
  targetEffect_onVoice fun x => hf x.noise

theorem targetEffect_onEnv {f : Env → Env × List Word} (hf : ∀ e, (f e).2.length = op.resp) :
    TargetEffect s op tgt (onEnv s op tgt a f) := by
  cases hv : unitTargetValid s.nv tgt a with
  | false => rw [onEnv_invalid f hv]; exact .invalid
  | true =>
    obtain ⟨e, put, h⟩ := exists_envAt hv
    rw [onEnv_at f h]
    obtain ⟨v, -, ⟨-, -, rfl⟩ | ⟨-, -, rfl⟩⟩ := h <;> exact .voice _ (hf e)

theorem targetEffect_onFilter {fl : Ladder → Ladder × List Word} {fs : Svf → Svf × List Word}
    (hl : ∀ f, (fl f).2.length = op.resp) (hs : ∀ f, (fs f).2.length = op.resp) :
    TargetEffect s op tgt (onFilter s op tgt a fl fs) := by
  cases hv : unitTargetValid s.nv tgt a with
  | false => rw [onFilter_invalid fl fs hv]; exact .invalid
  | true =>
    obtain ⟨f, put, h⟩ | ⟨f, put, h⟩ := exists_filterAt hv
    · rw [onFilter_ladder fl fs h]
      obtain ⟨v, -, -, -, rfl⟩ := h
      exact .voice _ (hl f)
    · rw [onFilter_svf fl fs h]
      obtain ⟨v, -, -, -, rfl⟩ := h
      exact .voice _ (hs f)

theorem targetEffect_onOsc {f : Osc → Osc × List Word} (hf : ∀ o, (f o).2.length = op.resp) :
    TargetEffect s op tgt (onOsc s op tgt a f) := by
  cases hv : oscTargetValid s.nv tgt a with
  | false => rw [onOsc_invalid f hv]; exact .invalid
  | true =>
    obtain ⟨o, put, h⟩ := exists_oscAt hv
    rw [onOsc_at f h]
    obtain ⟨v, -, ⟨-, -, rfl⟩ | ⟨-, -, rfl⟩⟩ | ⟨-, htgt, -, -, rfl⟩ := h
    · exact .voice _ (hf o)
    · exact .voice _ (hf o)
    · exact .lfo _ (hf o) htgt

end SharedOperations

/-! ## Every command with a target -/

theorem exec_targetEffect {i : Instr} {tgt : Byte} {s t : State} (ht : targetOf i = some tgt)
    (h : exec i s = .next t) : TargetEffect s i.op tgt t := by
  cases i with
  | nop | noteOn | noteOff | controlChange | render | readParam | reset => cases ht
  | oscSetFreq | oscSetWaveform | oscSetAmp | oscSetPw | oscPhaseAdd | oscReset | oscProcess
  | oscProcessMod | oscRead => cases ht; cases h; exact targetEffect_onOsc fun _ => rfl
  | envSetAttack | envSetDecay | envSetSustain | envSetRelease | envSetGate | envProcess | envRead =>
    cases ht; cases h; exact targetEffect_onEnv fun _ => rfl
  | fltSetFreq | fltSetRes | fltProcess | fltProcessMod | fltRead =>
    cases ht; cases h; exact targetEffect_onFilter (fun _ => rfl) fun _ => rfl
  | noiseSetAmp | noiseSeed | noiseProcess | noiseRead =>
    cases ht; cases h; exact targetEffect_onNoise fun _ => rfl
  | readVoice | voiceNoteOn | voiceNoteOff | voiceProcess =>
    cases ht; cases h; exact targetEffect_onVoice fun _ => rfl

/-- Settles O12: the addressed voice or the LFO is all that an effect replaces. -/
theorem targetedCommandsLeaveTheRestAlone : Obligations.TargetedCommandsLeaveTheRestAlone := by
  intro i tgt s t ht h
  cases exec_targetEffect ht h with
  | invalid => exact ⟨rfl, rfl, rfl, rfl, rfl, fun _ => rfl, fun _ _ => rfl⟩
  | voice x =>
    exact ⟨rfl, rfl, rfl, rfl, List.length_set, fun _ => rfl, fun v hv => List.getElem?_set_ne hv.symm⟩
  | lfo o _ htgt => exact ⟨rfl, rfl, rfl, rfl, rfl, fun hne => absurd htgt hne, fun _ _ => rfl⟩

/-! ## An invalid target (R121) -/

theorem exec_of_invalid_target {i : Instr} {s : State} (h : i.targetValid s.nv = false) :
    exec i s = .next (s.invalidTarget i.op) := by
  cases i with
  | nop | noteOn | noteOff | controlChange | render | readParam | reset => cases h
  | oscSetFreq | oscSetWaveform | oscSetAmp | oscSetPw | oscPhaseAdd | oscReset | oscProcess
  | oscProcessMod | oscRead => exact congrArg Host.Outcome.next (onOsc_invalid _ h)
  | envSetAttack | envSetDecay | envSetSustain | envSetRelease | envSetGate | envProcess | envRead =>
    exact congrArg Host.Outcome.next (onEnv_invalid _ h)
  | fltSetFreq | fltSetRes | fltProcess | fltProcessMod | fltRead =>
    exact congrArg Host.Outcome.next (onFilter_invalid _ _ h)
  | noiseSetAmp | noiseSeed | noiseProcess | noiseRead =>
    exact congrArg Host.Outcome.next (onNoise_invalid _ h)
  | readVoice | voiceNoteOn | voiceNoteOff | voiceProcess =>
    exact congrArg Host.Outcome.next (onVoice_invalid _ h)

/-- Settles O11: every shared operation answers alike for an invalid target, and a step runs it on the state
with the command's words consumed. -/
theorem invalidTargetChangesNothing : Obligations.InvalidTargetChangesNothing := by
  refine ⟨fun i s h => exec_of_invalid_target h, fun i s rest hp hd h => ?_, fun id s h => ?_⟩
  · rw [stepRunsDecodedCommand.1 s i rest hp hd]
    exact exec_of_invalid_target h
  · simp only [exec, execReadParam, Param.ofId_eq_none h]
    rfl

/-! ## Outputs (R116) -/

/-- A targeted command answers the words of its opcode, for an invalid target too, and no sample. -/
theorem TargetEffect.outputs {s t : State} {op : Op} {tgt : Byte} (h : TargetEffect s op tgt t) :
    (∃ ws, t.respOut = s.respOut ++ ws ∧ ws.length = op.resp) ∧ t.audioOut = s.audioOut := by
  cases h with
  | invalid => exact ⟨⟨_, rfl, List.length_replicate⟩, rfl⟩
  | voice _ hws => exact ⟨⟨_, rfl, hws⟩, rfl⟩
  | lfo _ hws => exact ⟨⟨_, rfl, hws⟩, rfl⟩

/-- A tick emits one sample, so `n` ticks emit `n`. -/
theorem renderSamples_audioOut (n : ℕ) (s : State) :
    ∃ ys, (renderSamples n s).audioOut = s.audioOut ++ ys ∧ ys.length = n := by
  induction n generalizing s with
  | zero => exact ⟨[], (List.append_nil _).symm, rfl⟩
  | succ n ih =>
    obtain ⟨ys, hys, hlen⟩ := ih (sampleTick s)
    obtain ⟨y, hy⟩ : ∃ y, (sampleTick s).audioOut = s.audioOut ++ [y] := ⟨_, rfl⟩
    refine ⟨y :: ys, ?_, congrArg (· + 1) hlen⟩
    rw [renderSamples, hys, hy, List.append_assoc, List.singleton_append]

/-- Every command but `RENDER` answers the words of its opcode and no sample. -/
theorem exec_outputs {i : Instr} {s t : State} (h : exec i s = .next t) (hi : ∀ n, i ≠ .render n) :
    (∃ ws, t.respOut = s.respOut ++ ws ∧ ws.length = i.op.resp) ∧ t.audioOut = s.audioOut := by
  have hnil : ∃ ws, s.respOut = s.respOut ++ ws ∧ ws.length = 0 := ⟨[], (List.append_nil _).symm, rfl⟩
  cases i with
  | render n => exact absurd rfl (hi n)
  | nop | noteOff | reset => cases h; exact ⟨hnil, rfl⟩
  | noteOn note vel =>
    simp only [exec, execNoteOn] at h
    split at h <;> cases h <;> exact ⟨hnil, rfl⟩
  | controlChange id value =>
    simp only [exec, execControlChange] at h
    split at h <;> cases h <;> exact ⟨hnil, rfl⟩
  | readParam id =>
    simp only [exec, execReadParam] at h
    split at h <;> cases h <;> exact ⟨⟨_, rfl, rfl⟩, rfl⟩
  | _ => exact (exec_targetEffect rfl h).outputs

/-- Settles O10: `RENDER` emits a sample per tick and answers nothing, and no other command emits a sample. -/
theorem responseCountsAreFixed : Obligations.ResponseCountsAreFixed := by
  intro i s t h
  cases i with
  | render n =>
    cases h
    exact ⟨⟨[], by rw [renderSamples_respOut, List.append_nil], rfl⟩, renderSamples_audioOut _ s⟩
  | _ =>
    obtain ⟨hresp, haudio⟩ := exec_outputs h nofun
    exact ⟨hresp, [], haudio.trans (List.append_nil _).symm, rfl⟩

end Sys2Proof.Machine
end

section
/-! The grouping of words in time (R111, R424): words that arrive later change nothing of what is performed
before, and a command held in parts is performed as if its words had arrived at once. -/

namespace Sys2Proof.Machine

open Sys2Proof.Safety

/-! ## No command sees the words that wait -/

@[simp] theorem State.feed_nv (s : State) (ws : List Word) : (s.feed ws).nv = s.nv := rfl

section SharedOperations
variable (s : State) (ws : List Word) (op : Op) (tgt a : Byte)

theorem invalidTarget_feed : (s.feed ws).invalidTarget op = (s.invalidTarget op).feed ws := rfl

theorem onVoiceAt_feed (v : ℕ) (f : Voice → Voice × List Word) :
    onVoiceAt (s.feed ws) op v f = (onVoiceAt s op v f).feed ws := by
  simp only [onVoiceAt, State.feed_voices]
  split <;> rfl

theorem onVoice_feed (f : Voice → Voice × List Word) :
    onVoice (s.feed ws) op tgt f = (onVoice s op tgt f).feed ws := by
  simp only [onVoice, State.feed_nv, invalidTarget_feed, onVoiceAt_feed]
  split <;> rfl

theorem onNoise_feed (f : Noise → Noise × List Word) :
    onNoise (s.feed ws) op tgt f = (onNoise s op tgt f).feed ws := onVoice_feed s ws op tgt _

theorem onEnv_feed (f : Env → Env × List Word) :
    onEnv (s.feed ws) op tgt a f = (onEnv s op tgt a f).feed ws := by
  simp only [onEnv, State.feed_nv, invalidTarget_feed, onVoiceAt_feed]
  split <;> rfl

theorem onFilter_feed (fl : Ladder → Ladder × List Word) (fs : Svf → Svf × List Word) :
    onFilter (s.feed ws) op tgt a fl fs = (onFilter s op tgt a fl fs).feed ws := by
  simp only [onFilter, State.feed_nv, invalidTarget_feed, onVoiceAt_feed]
  split <;> rfl

theorem onOsc_feed (f : Osc → Osc × List Word) :
    onOsc (s.feed ws) op tgt a f = (onOsc s op tgt a f).feed ws := by
  simp only [onOsc, State.feed_nv, invalidTarget_feed, onVoiceAt_feed]
  split <;> rfl

theorem renderSamples_feed (n : ℕ) : renderSamples n (s.feed ws) = (renderSamples n s).feed ws := by
  induction n generalizing s with
  | zero => rfl
  | succ n ih => exact ih (sampleTick s)

end SharedOperations

theorem exec_feed (i : Instr) {s t : State} (h : exec i s = .next t) (ws : List Word) :
    exec i (s.feed ws) = .next (t.feed ws) := by
  cases i with
  | nop | noteOff | reset => cases h; rfl
  | noteOn note vel =>
    simp only [exec, execNoteOn] at h ⊢
    split at h <;> cases h
    next hvel => exact if_pos hvel
    next hvel => exact if_neg hvel
  | controlChange id value =>
    simp only [exec, execControlChange] at h ⊢
    split at h <;> cases h <;> rfl
  | readParam id =>
    simp only [exec, execReadParam] at h ⊢
    split at h <;> cases h <;> rfl
  | render n => cases h; exact congrArg Host.Outcome.next (renderSamples_feed s ws _)
  | oscSetFreq | oscSetWaveform | oscSetAmp | oscSetPw | oscPhaseAdd | oscReset | oscProcess
  | oscProcessMod | oscRead => cases h; exact congrArg Host.Outcome.next (onOsc_feed _ _ _ _ _ _)
  | envSetAttack | envSetDecay | envSetSustain | envSetRelease | envSetGate | envProcess | envRead =>
    cases h; exact congrArg Host.Outcome.next (onEnv_feed _ _ _ _ _ _)
  | fltSetFreq | fltSetRes | fltProcess | fltProcessMod | fltRead =>
    cases h; exact congrArg Host.Outcome.next (onFilter_feed _ _ _ _ _ _ _)
  | noiseSetAmp | noiseSeed | noiseProcess | noiseRead =>
    cases h; exact congrArg Host.Outcome.next (onNoise_feed _ _ _ _ _)
  | readVoice | voiceNoteOn | voiceNoteOff | voiceProcess =>
    cases h; exact congrArg Host.Outcome.next (onVoice_feed _ _ _ _ _)

/-! ## Every step answers a state, and its held words are unfinished (R424, R440) -/

theorem exists_exec_eq_next (i : Instr) (s : State) : ∃ t, exec i s = .next t := by
  cases i with
  | noteOn note vel => simp only [exec, execNoteOn]; split <;> exact ⟨_, rfl⟩
  | controlChange id value => simp only [exec, execControlChange]; split <;> exact ⟨_, rfl⟩
  | readParam id => simp only [exec, execReadParam]; split <;> exact ⟨_, rfl⟩
  | _ => exact ⟨_, rfl⟩

theorem pendingOk_of_nil {s : State} (h : s.partialCmd = []) : pendingOk s = true := by
  simp only [pendingOk, h]

theorem pendingOk_of_unfinished {s : State} {hd : Word} {tl : List Word} {op : Op} (h : s.partialCmd = hd :: tl)
    (hop : Op.ofByte (opField hd) = some op) (hlen : tl.length < op.pay) : pendingOk s = true := by
  simp only [pendingOk, h, hop, hlen, decide_true]

/-- A step answers a state, and the words it leaves held are those of an unfinished command, whatever was held
before. -/
theorem exists_step_eq_next (s : State) : ∃ t, step s = .next t ∧ pendingOk t = true := by
  cases hd : decode s.window with
  | empty =>
    obtain ⟨hpc, -⟩ := List.append_eq_nil_iff.mp (eq_nil_of_decode_empty hd)
    exact ⟨s, step_of_empty hd, pendingOk_of_nil hpc⟩
  | command i rest =>
    obtain ⟨t, ht⟩ := exists_exec_eq_next i (s.consumeTo rest)
    obtain ⟨-, -, hpc⟩ := exec_stream i ht
    exact ⟨t, (step_of_command hd).trans ht, pendingOk_of_nil hpc⟩
  | undefinedOpcode b rest => exact ⟨_, step_of_undefined hd, pendingOk_of_nil rfl⟩
  | incomplete op n =>
    obtain ⟨w, tl, hw, hop, hlen⟩ := decode_incomplete hd
    exact ⟨_, step_of_incomplete hd, pendingOk_of_unfinished hw hop hlen⟩

/-! ## Running on -/

theorem stepOn_of_next {s t : State} (h : step s = .next t) : stepOn s = t := by
  simp only [stepOn, h]

theorem pendingOk_stepOn (s : State) : pendingOk (stepOn s) = true := by
  obtain ⟨t, ht, hp⟩ := exists_step_eq_next s
  rwa [stepOn_of_next ht]

theorem stepOn_of_stream_nil {s : State} (hp : pendingOk s = true) (h : s.stream = []) : stepOn s = s :=
  stepOn_of_next (step_of_stream_nil hp h)

/-- A step leaves fewer words, where one waits. -/
theorem stepOn_stream_length {s : State} (hp : pendingOk s = true) :
    (stepOn s).stream.length ≤ s.stream.length - 1 := by
  obtain ⟨t, ht, -⟩ := exists_step_eq_next s
  obtain ⟨n, -, hpos, -, hstream⟩ := step_takes_words hp ht
  rw [stepOn_of_next ht, hstream, List.length_drop]
  cases hs : s.stream with
  | nil => simp
  | cons w ws =>
    have := hpos (by simp [hs])
    omega

/-- With as many steps as words every word is consumed, and further steps change nothing. -/
theorem stepsOn_succ_of_stream_length_le {n : ℕ} {s : State} (hp : pendingOk s = true) (hn : s.stream.length ≤ n) :
    stepsOn (n + 1) s = stepsOn n s := by
  induction n generalizing s with
  | zero => exact stepOn_of_stream_nil hp (List.length_eq_zero_iff.mp (Nat.le_zero.mp hn))
  | succ n ih => exact ih (pendingOk_stepOn s) ((stepOn_stream_length hp).trans (by omega))

theorem stepsOn_eq_drain {n : ℕ} {s : State} (hp : pendingOk s = true) (hn : s.stream.length ≤ n) :
    stepsOn n s = drain s := by
  refine Eq.trans ?_ (stepsOn_succ_of_stream_length_le hp le_rfl).symm
  induction n, hn using Nat.le_induction with
  | base => rfl
  | succ n hn ih => rw [stepsOn_succ_of_stream_length_le hp hn, ih]

theorem drain_stepOn {s : State} (hp : pendingOk s = true) : drain (stepOn s) = drain s :=
  (stepsOn_eq_drain (pendingOk_stepOn s) ((stepOn_stream_length hp).trans (Nat.sub_le _ _))).symm

/-! ## Words that arrive after a step -/

theorem consumeTo_feed (s : State) (rest ws : List Word) :
    (s.feed ws).consumeTo (rest ++ ws) = (s.consumeTo rest).feed ws := by
  simp only [State.consumeTo, State.feed, List.length_append, Nat.add_sub_add_right]

/-- Holding the words of an unfinished command makes no difference to the step in which more words come. -/
theorem step_holdPartial_feed {s : State} {op : Op} {n : ℕ} (h : decode s.window = .incomplete op n)
    (ws : List Word) : step (s.holdPartial.feed ws) = step (s.feed ws) := by
  obtain ⟨hd, tl, hw, hop, hlt⟩ := decode_incomplete h
  have hfed : (s.feed ws).window = hd :: (tl ++ ws) := by rw [State.feed_window, hw, List.cons_append]
  have hheld : (s.holdPartial.feed ws).window = hd :: (tl ++ ws) := by
    rw [← hfed]; simp [State.window]
  by_cases hlen : op.pay ≤ (tl ++ ws).length
  · have hdec := decode_of_pay_le hop hlen
    have hconsume : (s.holdPartial.feed ws).consumeTo ((tl ++ ws).drop op.pay) =
        (s.feed ws).consumeTo ((tl ++ ws).drop op.pay) := by
      simp only [State.consumeTo, State.feed, State.holdPartial, List.length_append, List.length_drop,
        List.length_nil]
      congr 1
      omega
    rw [step_of_command (hheld ▸ hdec), step_of_command (hfed ▸ hdec), hconsume]
  · have hdec := decode_of_lt_pay hop (Nat.lt_of_not_le hlen)
    have hhold : (s.holdPartial.feed ws).holdPartial = (s.feed ws).holdPartial := by
      simp [State.holdPartial, State.feed, State.window, Nat.add_assoc]
    rw [step_of_incomplete (hheld ▸ hdec), step_of_incomplete (hfed ▸ hdec), hhold]

/-- A step that takes a whole command takes the same with more words after it, and leaves those. -/
theorem stepOn_feed_of_command {s : State} {i : Instr} {rest : List Word}
    (h : decode s.window = .command i rest) (ws : List Word) : stepOn (s.feed ws) = (stepOn s).feed ws := by
  obtain ⟨t, ht⟩ := exists_exec_eq_next i (s.consumeTo rest)
  have hfed : decode (s.feed ws).window = .command i (rest ++ ws) := by
    rw [State.feed_window, decode_append_of_command h]
  have hexec : exec i ((s.feed ws).consumeTo (rest ++ ws)) = .next (t.feed ws) := by
    rw [consumeTo_feed, exec_feed i ht]
  rw [stepOn_of_next ((step_of_command h).trans ht), stepOn_of_next ((step_of_command hfed).trans hexec)]

theorem stepOn_feed_of_undefined {s : State} {b : Byte} {rest : List Word}
    (h : decode s.window = .undefinedOpcode b rest) (ws : List Word) :
    stepOn (s.feed ws) = (stepOn s).feed ws := by
  have hfed : decode (s.feed ws).window = .undefinedOpcode b (rest ++ ws) := by
    rw [State.feed_window, decode_append_of_undefined h]
  rw [stepOn_of_next (step_of_undefined h), stepOn_of_next (step_of_undefined hfed), consumeTo_feed]

/-- Running one step before more words arrive makes no difference once all are run. -/
theorem drain_stepOn_feed {s : State} (hp : pendingOk s = true) (ws : List Word) :
    drain ((stepOn s).feed ws) = drain (s.feed ws) := by
  have hpfed : pendingOk (s.feed ws) = true := hp
  cases hd : decode s.window with
  | empty => rw [stepOn_of_next (step_of_empty hd)]
  | command i rest => rw [← stepOn_feed_of_command hd, drain_stepOn hpfed]
  | undefinedOpcode b rest => rw [← stepOn_feed_of_undefined hd, drain_stepOn hpfed]
  | incomplete op n =>
    have hheld : stepOn s = s.holdPartial := stepOn_of_next (step_of_incomplete hd)
    have hpheld : pendingOk (s.holdPartial.feed ws) = true := hheld ▸ pendingOk_stepOn s
    obtain ⟨t, ht, -⟩ := exists_step_eq_next (s.feed ws)
    rw [hheld, ← drain_stepOn hpheld, ← drain_stepOn hpfed, stepOn_of_next ht,
      stepOn_of_next ((step_holdPartial_feed hd ws).trans ht)]

theorem drain_stepsOn_feed (n : ℕ) {s : State} (hp : pendingOk s = true) (ws : List Word) :
    drain ((stepsOn n s).feed ws) = drain (s.feed ws) := by
  induction n generalizing s with
  | zero => rfl
  | succ n ih => exact (ih (pendingOk_stepOn s)).trans (drain_stepOn_feed hp ws)

/-- Settles O6: draining is steps, and no step before more words arrive makes a difference. -/
theorem groupingOfWordsIsInvisible : Obligations.GroupingOfWordsIsInvisible :=
  fun s ws hp => drain_stepsOn_feed (s.stream.length + 1) hp ws

end Sys2Proof.Machine
end

section
/-! What the selection of a unit gives (R117 to R120): the state with the unit replaced has the same outputs and
parameters, putting the unit itself back gives the state, and the new unit is then the one selected. -/

namespace Sys2Proof.Machine

open Sys2Proof.Safety

/-! ## A replaced unit -/

/-- `put` replaces a unit, now `x`, in `s`: it keeps the responses and the sample rate, and putting `x` back gives
`s`. -/
structure Replaces {σ : Type} (s : State) (x : σ) (put : σ → State) : Prop where
  self : put x = s
  respOut : ∀ y, (put y).respOut = s.respOut
  sampleRate : ∀ y, (put y).sampleRate = s.sampleRate

section Units
variable {σ : Type} {s : State} {tgt a : Byte}

theorem Replaces.respond {x : σ} {put : σ → State} (h : Replaces s x put) (y : σ) (ws : List Word) :
    (put y).respond ws = { put y with respOut := s.respOut ++ ws } := by
  rw [State.respond, h.respOut]

/-- Answering words with the unit as it was changes the responses alone. -/
theorem Replaces.respond_self {x : σ} {put : σ → State} (h : Replaces s x put) (ws : List Word) :
    (put x).respond ws = { s with respOut := s.respOut ++ ws } := by
  rw [h.self, State.respond]

theorem replaces_in_voice {i : ℕ} {v : Voice} (hv : s.voices[i]? = some v) (f : σ → Voice) {x : σ}
    (hx : f x = v) : Replaces s x fun y => { s with voices := s.voices.set i (f y) } where
  self := by
    obtain ⟨hi, rfl⟩ := List.getElem?_eq_some_iff.mp hv
    rw [hx, List.set_getElem_self]
  respOut _ := rfl
  sampleRate _ := rfl

theorem replaces_of_oscAt {o : Osc} {put : Osc → State} (h : OscAt s tgt a o put) : Replaces s o put := by
  obtain ⟨v, hv, ⟨-, rfl, rfl⟩ | ⟨-, rfl, rfl⟩⟩ | ⟨-, -, -, rfl, rfl⟩ := h
  · exact replaces_in_voice hv (fun x => { v with osc0 := x }) rfl
  · exact replaces_in_voice hv (fun x => { v with osc1 := x }) rfl
  · exact ⟨rfl, fun _ => rfl, fun _ => rfl⟩

theorem replaces_of_envAt {e : Env} {put : Env → State} (h : EnvAt s tgt a e put) : Replaces s e put := by
  obtain ⟨v, hv, ⟨-, rfl, rfl⟩ | ⟨-, rfl, rfl⟩⟩ := h
  · exact replaces_in_voice hv (fun x => { v with env0 := x }) rfl
  · exact replaces_in_voice hv (fun x => { v with env1 := x }) rfl

theorem replaces_of_ladderAt {f : Ladder} {put : Ladder → State} (h : LadderAt s tgt a f put) :
    Replaces s f put := by
  obtain ⟨v, hv, -, rfl, rfl⟩ := h
  exact replaces_in_voice hv (fun x => { v with ladder := x }) rfl

theorem replaces_of_svfAt {f : Svf} {put : Svf → State} (h : SvfAt s tgt a f put) : Replaces s f put := by
  obtain ⟨v, hv, -, rfl, rfl⟩ := h
  exact replaces_in_voice hv (fun x => { v with svf := x }) rfl

theorem replaces_of_noiseAt {n : Noise} {put : Noise → State} (h : NoiseAt s tgt n put) : Replaces s n put := by
  obtain ⟨v, hv, rfl, rfl⟩ := h
  exact replaces_in_voice hv (fun x => { v with noise := x }) rfl

/-! ## The unit selected after a command -/

/-- After a command the voice it replaced is the one at its index. -/
theorem getElem?_put_voice {i : ℕ} {v : Voice} (hv : s.voices[i]? = some v) (w : Voice) (ws : List Word) :
    ({ s with voices := s.voices.set i w }.respond ws).voices[i]? = some w :=
  List.getElem?_set_self (List.getElem?_eq_some_iff.mp hv).1

/-- Of two replacements of a voice the second stays. -/
theorem put_put_voice (i : ℕ) (w : Voice) (ws : List Word) (f : σ → Voice) :
    (fun z => { s with voices := s.voices.set i (f z) }.respond ws) =
      fun z => { { s with voices := s.voices.set i w }.respond ws with
        voices := ({ s with voices := s.voices.set i w }.respond ws).voices.set i (f z) } := by
  simp only [State.respond, List.set_set]

theorem oscAt_put {o : Osc} {put : Osc → State} (h : OscAt s tgt a o put) (y : Osc) (ws : List Word) :
    OscAt ((put y).respond ws) tgt a y fun z => (put z).respond ws := by
  obtain ⟨v, hv, ⟨ha, rfl, rfl⟩ | ⟨ha, rfl, rfl⟩⟩ | ⟨hv, ht, ha, rfl, rfl⟩ := h
  · exact .inl ⟨_, getElem?_put_voice hv _ ws, .inl ⟨ha, rfl, put_put_voice _ _ _ _⟩⟩
  · exact .inl ⟨_, getElem?_put_voice hv _ ws, .inr ⟨ha, rfl, put_put_voice _ _ _ _⟩⟩
  · exact .inr ⟨hv, ht, ha, rfl, rfl⟩

theorem envAt_put {e : Env} {put : Env → State} (h : EnvAt s tgt a e put) (y : Env) (ws : List Word) :
    EnvAt ((put y).respond ws) tgt a y fun z => (put z).respond ws := by
  obtain ⟨v, hv, ⟨ha, rfl, rfl⟩ | ⟨ha, rfl, rfl⟩⟩ := h
  · exact ⟨_, getElem?_put_voice hv _ ws, .inl ⟨ha, rfl, put_put_voice _ _ _ _⟩⟩
  · exact ⟨_, getElem?_put_voice hv _ ws, .inr ⟨ha, rfl, put_put_voice _ _ _ _⟩⟩

theorem ladderAt_put {f : Ladder} {put : Ladder → State} (h : LadderAt s tgt a f put) (y : Ladder)
    (ws : List Word) : LadderAt ((put y).respond ws) tgt a y fun z => (put z).respond ws := by
  obtain ⟨v, hv, ha, rfl, rfl⟩ := h
  exact ⟨_, getElem?_put_voice hv _ ws, ha, rfl, put_put_voice _ _ _ _⟩

theorem svfAt_put {f : Svf} {put : Svf → State} (h : SvfAt s tgt a f put) (y : Svf) (ws : List Word) :
    SvfAt ((put y).respond ws) tgt a y fun z => (put z).respond ws := by
  obtain ⟨v, hv, ha, rfl, rfl⟩ := h
  exact ⟨_, getElem?_put_voice hv _ ws, ha, rfl, put_put_voice _ _ _ _⟩

end Units

/-! ## Readback (R169, R212, R249, R284) -/

theorem oscFlagWord_toNat (o : Osc) :
    (oscFlagWord o).toNat = o.eoc.toNat + 2 * o.eor.toNat + 4 * o.wave.code.toNat := by
  rw [oscFlagWord]
  cases o.wave <;> cases o.eor <;> cases o.eoc <;> rfl

theorem envFlagWord_toNat (e : Env) : (envFlagWord e).toNat = e.stage.code.toNat + 8 * e.gate.toNat := by
  rw [envFlagWord]
  cases e.stage <;> cases e.gate <;> rfl

/-- Settles O36: a readback puts back the unit it read, and an invalid target answers the words of the opcode. -/
theorem unitReadbackWords : Obligations.UnitReadbackWords := by
  refine ⟨fun s tgt a o put h => ⟨oscFlagWord o, oscFlagWord_toNat o, ?_⟩,
    fun s tgt a e put h => ⟨envFlagWord e, envFlagWord_toNat e, ?_⟩, fun s tgt a f put h => ?_,
    fun s tgt a f put h => ?_, fun s tgt n put h => ?_, fun s tgt a => ⟨?_, fun h => ⟨?_, ?_⟩, ?_⟩⟩
  · exact congrArg Host.Outcome.next ((onOsc_at _ h).trans ((replaces_of_oscAt h).respond_self _))
  · exact congrArg Host.Outcome.next ((onEnv_at _ h).trans ((replaces_of_envAt h).respond_self _))
  · exact congrArg Host.Outcome.next ((onFilter_ladder _ _ h).trans ((replaces_of_ladderAt h).respond_self _))
  · exact congrArg Host.Outcome.next ((onFilter_svf _ _ h).trans ((replaces_of_svfAt h).respond_self _))
  · exact congrArg Host.Outcome.next ((onNoise_at _ h).trans ((replaces_of_noiseAt h).respond_self _))
  · exact fun h => exec_of_invalid_target (i := .oscRead tgt a) h
  · exact exec_of_invalid_target (i := .envRead tgt a) h
  · exact exec_of_invalid_target (i := .fltRead tgt a) h
  · exact fun h => exec_of_invalid_target (i := .noiseRead tgt) h

/-! ## Block forms (R168, R211, R248) -/

theorem State.respond_respond (s : State) (xs ys : List Word) :
    (s.respond xs).respond ys = s.respond (xs ++ ys) := by
  simp only [State.respond, List.append_assoc]

/-- A block form is its per-sample command repeated: where the command runs one step on the selected unit and
answers its sample, and the block form takes the same steps, both end in the same state. -/
theorem performAll_block {σ ε : Type} {At : State → σ → (σ → State) → Prop} {cmd : ε → Instr}
    {next : ε → σ → σ × F32} {block : σ → List ε → σ × List F32}
    (hat : ∀ {s x put}, At s x put → Replaces s x put)
    (hput : ∀ {s x put} (y : σ) (ws : List Word), At s x put →
      At ((put y).respond ws) y fun z => (put z).respond ws)
    (hcmd : ∀ {s x put} (e : ε), At s x put →
      exec (cmd e) s = .next ((put (next e x).1).respond [(next e x).2]))
    (hnil : ∀ x, block x [] = (x, []))
    (hcons : ∀ x e es, block x (e :: es) =
      ((block (next e x).1 es).1, (next e x).2 :: (block (next e x).1 es).2))
    (es : List ε) {s : State} {x : σ} {put : σ → State} (h : At s x put) :
    performAll (es.map cmd) s = .next ((put (block x es).1).respond (block x es).2) := by
  induction es generalizing s x put with
  | nil => rw [hnil, State.respond_nil, (hat h).self]; rfl
  | cons e es ih =>
    simp only [List.map_cons, performAll, hcmd e h, ih (hput _ _ h), hcons, State.respond_respond,
      List.singleton_append]

section Commands
variable {s : State} {tgt a : Byte}

theorem exec_oscProcessMod {o : Osc} {put : Osc → State} (h : OscAt s tgt a o put) (rst : Bool) (fm pwm : Word) :
    exec (.oscProcessMod tgt a rst fm pwm) s =
      .next ((put (oscStep o fm pwm rst).1).respond [(oscStep o fm pwm rst).2]) :=
  congrArg Host.Outcome.next (onOsc_at _ h)

theorem exec_envProcess {e : Env} {put : Env → State} (h : EnvAt s tgt a e put) (g : Bool) :
    exec (.envProcess tgt a g) s = .next ((put (envProcess e g).1).respond [(envProcess e g).2]) :=
  congrArg Host.Outcome.next (onEnv_at _ h)

theorem exec_fltProcessMod_ladder {f : Ladder} {put : Ladder → State} (h : LadderAt s tgt a f put)
    (x fc : Word) : exec (.fltProcessMod tgt a x fc) s =
      .next ((put (ladderProcessMod s.sampleRate f x fc).1).respond [(ladderProcessMod s.sampleRate f x fc).2]) :=
  congrArg Host.Outcome.next (onFilter_ladder _ _ h)

theorem exec_fltProcessMod_svf {f : Svf} {put : Svf → State} (h : SvfAt s tgt a f put) (x fc : Word) :
    exec (.fltProcessMod tgt a x fc) s =
      .next ((put (svfProcessMod s.sampleRate f x fc).1).respond [(svfProcessMod s.sampleRate f x fc).2]) :=
  congrArg Host.Outcome.next (onFilter_svf _ _ h)

end Commands

/-- Settles O46: each command runs one step on the selected unit, and the block forms take the same steps; the
cutoff of a filter's step is converted at the sample rate, which no step changes. -/
theorem blockFormsEqualPerSampleCommands : Obligations.BlockFormsEqualPerSampleCommands := by
  refine ⟨fun es reset s tgt a o put h => ?_, fun gs s tgt a e put h => ?_, fun es s tgt a f put h => ?_,
    fun es s tgt a f put h => ?_⟩
  · rw [← (replaces_of_oscAt h).respond]
    exact performAll_block (At := fun u x p => OscAt u tgt a x p) (block := oscBlock reset)
      (next := fun (fm, pwm, r) x => oscStep x fm pwm (reset && r)) replaces_of_oscAt
      (fun y ws hu => oscAt_put hu y ws) (fun _ hu => exec_oscProcessMod hu _ _ _) (fun _ => rfl)
      (fun _ _ _ => rfl) es h
  · rw [← (replaces_of_envAt h).respond]
    exact performAll_block (At := fun u x p => EnvAt u tgt a x p) (block := envBlock)
      (next := fun g x => envProcess x g) replaces_of_envAt (fun y ws hu => envAt_put hu y ws)
      (fun g hu => exec_envProcess hu g) (fun _ => rfl) (fun _ _ _ => rfl) gs h
  · rw [← (replaces_of_ladderAt h).respond]
    exact performAll_block (At := fun u x p => LadderAt u tgt a x p ∧ u.sampleRate = s.sampleRate)
      (block := ladderBlock s.sampleRate) (next := fun (x, fc) y => ladderProcessMod s.sampleRate y x fc)
      (fun hu => replaces_of_ladderAt hu.1)
      (fun y ws hu => ⟨ladderAt_put hu.1 y ws, ((replaces_of_ladderAt hu.1).sampleRate y).trans hu.2⟩)
      (fun _ hu => hu.2 ▸ exec_fltProcessMod_ladder hu.1 _ _) (fun _ => rfl) (fun _ _ _ => rfl) es ⟨h, rfl⟩
  · rw [← (replaces_of_svfAt h).respond]
    exact performAll_block (At := fun u x p => SvfAt u tgt a x p ∧ u.sampleRate = s.sampleRate)
      (block := svfBlock s.sampleRate) (next := fun (x, fc) y => svfProcessMod s.sampleRate y x fc)
      (fun hu => replaces_of_svfAt hu.1)
      (fun y ws hu => ⟨svfAt_put hu.1 y ws, ((replaces_of_svfAt hu.1).sampleRate y).trans hu.2⟩)
      (fun _ hu => hu.2 ▸ exec_fltProcessMod_svf hu.1 _ _) (fun _ => rfl) (fun _ _ _ => rfl) es ⟨h, rfl⟩

end Sys2Proof.Machine
end

section
/-! The oscillator's commands and its step (R145 to R156, R166, R167). -/

namespace Sys2Proof.Machine

open Sys2Proof.Safety

/-! ## Settings (R147 to R149) -/

theorem waveOfCode_code (c : ℕ) : (waveOfCode c).code.toNat = min c 7 := by
  have h : ∀ k ≤ 7, (waveOfCode k).code.toNat = k := by decide
  have hmin : waveOfCode c = waveOfCode (min c 7) := by simp only [waveOfCode, min_assoc, min_self]
  rw [hmin, h _ (min_le_right c 7)]

/-- Settles O20: each setter runs on the selected oscillator and writes its one register. -/
theorem oscSettersClamp : Obligations.OscSettersClamp := fun _ _ _ _ _ h =>
  ⟨fun code => ⟨_, waveOfCode_code code.toNat,
    congrArg Host.Outcome.next ((onOsc_at _ h).trans (State.respond_nil _))⟩,
    fun _ => congrArg Host.Outcome.next ((onOsc_at _ h).trans (State.respond_nil _)),
    fun _ => congrArg Host.Outcome.next ((onOsc_at _ h).trans (State.respond_nil _))⟩

/-! ## The increment of a frequency (R145, R146) -/

theorem eq_of_abs_sub_intCast_le_half {m n : ℤ} (h : |(m : ℚ) - n| ≤ 1 / 2) : m = n := by
  obtain ⟨h1, h2⟩ := abs_le.mp h
  have hlt : (m : ℚ) < n + 1 := by linarith
  have hgt : (n : ℚ) < m + 1 := by linarith
  norm_cast at hlt hgt
  omega

/-- A quotient between 0 and `m` keeps its rounded value as a word. -/
theorem toNat_u32_of_isRneInt {q : ℚ} {n : ℤ} {m : ℕ} (h : IsRneInt q n) (h0 : 0 ≤ q) (hq : q ≤ m)
    (hm : m < 2 ^ 32) : ((u32 n).toNat : ℤ) = n := by
  obtain ⟨h1, h2⟩ := abs_le.mp h.1
  have hneg : (-1 : ℚ) < n := by linarith
  have hlt : (n : ℚ) < m + 1 := by linarith
  norm_cast at hneg hlt
  rw [u32, BitVec.toNat_ofInt]
  omega

section SampleRate
variable {sr : ℕ} (hlo : 8000 ≤ sr) (hhi : sr ≤ 192000)
include hlo hhi

omit hlo in
theorem fle_fZero_nyq32 : fle fZero (nyq32 sr) = true := by
  obtain ⟨hf, h0, -⟩ := valIn_nyq32 hhi
  exact (fle_iff_val (by decide) hf).mpr (val_fZero.le.trans (le_trans (by positivity) h0))

omit hlo in
/-- A frequency request is held to [0, sr/2]. -/
theorem valIn_clampf_nyq32 (fr : F32) : ValIn 0 (sr / 2) (clampf fr fZero (nyq32 sr)) := by
  obtain ⟨hnf, -, hn1⟩ := valIn_nyq32 hhi
  have h := valIn_clampf fr (by decide) hnf ((fle_iff_val (by decide) hnf).mp (fle_fZero_nyq32 hhi))
  rw [val_fZero] at h
  exact h.mono le_rfl hn1

/-- The increment is the clamped frequency in phase steps per sample, rounded to nearest (R145). -/
theorem isRneInt_incOf (fr : F32) :
    IsRneInt (val (clampf fr fZero (nyq32 sr)) * 2 ^ 32 / sr) (incOf sr fr).toNat := by
  obtain ⟨-, h0, h1⟩ := valIn_clampf_nyq32 hhi fr
  have hsr : (0 : ℚ) < sr := by exact_mod_cast (by omega : 0 < sr)
  have hr := isRneInt_rneInt (fint (clampf fr fZero (nyq32 sr)) * 2 ^ 32) (b := 2 ^ 149 * sr) (by positivity)
  have hq : ((fint (clampf fr fZero (nyq32 sr)) * 2 ^ 32 : ℤ) : ℚ) / (2 ^ 149 * sr : ℕ) =
      val (clampf fr fZero (nyq32 sr)) * 2 ^ 32 / sr := by
    rw [val, div_mul_eq_mul_div, div_div]
    push_cast
    rfl
  rw [hq] at hr
  have hle : val (clampf fr fZero (nyq32 sr)) * 2 ^ 32 / sr ≤ (2 ^ 31 : ℕ) := by
    rw [div_le_iff₀ hsr]
    push_cast
    linarith
  rwa [incOf, toNat_u32_of_isRneInt hr (by positivity) hle (by decide)]

/-- A clamped frequency that is a whole number of phase steps per sample is the increment. -/
theorem incOf_eq_of_val {fr : F32} {w : Word}
    (h : val (clampf fr fZero (nyq32 sr)) * 2 ^ 32 / sr = ((w.toNat : ℤ) : ℚ)) : incOf sr fr = w := by
  have hr := (isRneInt_incOf hlo hhi fr).1
  rw [h] at hr
  exact BitVec.eq_of_toNat_eq (by exact_mod_cast (eq_of_abs_sub_intCast_le_half hr).symm)

theorem incOf_of_clampf_fZero {fr : F32} (h : clampf fr fZero (nyq32 sr) = fZero) : incOf sr fr = 0#32 := by
  apply incOf_eq_of_val hlo hhi
  simp [h]

theorem incOf_of_clampf_nyq32 {fr : F32} (h : clampf fr fZero (nyq32 sr) = nyq32 sr) :
    incOf sr fr = 0x80000000#32 := by
  have hsr : (sr : ℚ) ≠ 0 := by exact_mod_cast (by omega : sr ≠ 0)
  apply incOf_eq_of_val hlo hhi
  rw [h, (valIn_nyq32 hhi).eq]
  field_simp
  norm_num

end SampleRate

/-- Settles O19: the clamp of R145 fixes the increment below and above its range, and between them the quotient
is rounded. -/
theorem oscSetFreqStoresIncrement : Obligations.OscSetFreqStoresIncrement := by
  intro s tgt a o put fr hp h
  obtain ⟨hlo, hhi, -⟩ := paramsOk_iff.mp hp
  refine ⟨incOf s.sampleRate fr, congrArg Host.Outcome.next ((onOsc_at _ h).trans (State.respond_nil _)),
    isRneInt_incOf hlo hhi fr, toNat_incOf_le hlo hhi fr, ?_, ?_, ?_⟩
  · rintro (hnan | hneg)
    · exact incOf_of_clampf_fZero hlo hhi (clampf_of_isNaN _ _ hnan)
    · exact incOf_of_clampf_fZero hlo hhi (clampf_of_lt _ hneg)
  · exact fun hgt => incOf_of_clampf_nyq32 hlo hhi (clampf_of_gt (fle_fZero_nyq32 hhi) hgt)
  · rintro hsr rfl
    rw [hsr]
    decide +kernel

/-! ## The phase (R142, R155, R156) -/

theorem isRneInt_rad2acc {x : F32} (hx : finite x = true) : IsRneInt (val x * 683565248) (rad2acc x) := by
  have h := isRneInt_rneInt (fint x * rad2accInt) (b := 2 ^ 149) (by positivity)
  rw [rad2acc, if_pos hx]
  convert h using 1
  rw [val, rad2accInt]
  push_cast
  ring

/-- Settles O21: the radians are converted by one rounding, and only the phase is written. -/
theorem oscPhaseCommands : Obligations.OscPhaseCommands := by
  intro s tgt a o put h
  refine ⟨fun delta => ⟨rad2acc delta, isRneInt_rad2acc, fun hd => ?_,
    congrArg Host.Outcome.next ((onOsc_at _ h).trans (State.respond_nil _))⟩,
    congrArg Host.Outcome.next ((onOsc_at _ h).trans (State.respond_nil _))⟩
  rw [rad2acc, hd]
  rfl

/-! ## The step (R150 to R154) -/

/-- Settles O22: the step's sample is the one word answered. -/
theorem oscProcessAnswersOneStep : Obligations.OscProcessAnswersOneStep :=
  ⟨fun _ _ _ _ _ h =>
    ⟨congrArg Host.Outcome.next ((onOsc_at _ h).trans ((replaces_of_oscAt h).respond _ _)),
      fun rst fm pwm => (exec_oscProcessMod h rst fm pwm).trans
        (congrArg Host.Outcome.next ((replaces_of_oscAt h).respond _ _))⟩,
    fun _ tgt a h => exec_of_invalid_target (i := .oscProcess tgt a) h⟩

theorem toNat_u32 (n : ℤ) : ((u32 n).toNat : ℤ) = n % 2 ^ 32 := by
  rw [u32, BitVec.toNat_ofInt]
  omega

/-- A hard reset is a step from phase 0 (R150). -/
theorem oscStep_rst (o : Osc) (fm pwm : F32) (rst : Bool) :
    oscStep o fm pwm rst = oscStep { o with acc := if rst then 0#32 else o.acc } fm pwm false := by
  cases rst <;> rfl

theorem wave_last {o : Osc} (h : o.wave ≠ .pbTri) (t dt pwe : F32) : (wave o t dt pwe).2 = o.last := by
  cases hw : o.wave with
  | pbTri => exact absurd hw h
  | _ => simp only [wave, hw]

theorem eorFlag_iff (acc : Word) (d : ℤ) :
    eorFlag acc d = true ↔ acc.toNat < 2 ^ 31 ∧ 2 ^ 31 ≤ acc.toNat + d := by
  simp only [eorFlag, Bool.and_eq_true, decide_eq_true_eq]

/-- Settles O23: the step's definition read from the phase after the reset, which the sample, the flags and the
advance all start from. -/
theorem oscStepAdvancesPhaseAndFlags : Obligations.OscStepAdvancesPhaseAndFlags := by
  intro o fm pwm rst
  rw [oscStep_rst]
  refine ⟨rfl, ?_, decide_eq_true_iff, eorFlag_iff _ _, rfl, rfl, rfl, rfl, rfl, fun hw =>
    wave_last (o := { o with acc := if rst then 0#32 else o.acc }) hw _ _ _⟩
  exact toNat_u32 _

theorem val_fabs (x : F32) : val (fabs x) = |val x| := by
  rw [val, fint_fabs, Int.cast_abs, val, abs_div, abs_of_pos (by positivity : (0 : ℚ) < 2 ^ 149)]

/-- Settles O24: the waveform is clamped to [−1, 1], and rounding its product with the amplitude does not pass
the amplitude, which is a value itself. -/
theorem oscOutputIsBoundedByAmp : Obligations.OscOutputIsBoundedByAmp := by
  intro o fm pwm rst ha
  obtain ⟨haf, ha0, -⟩ := inUnit_iff.mp ha
  have hmul : ∀ x, fle (fabs (fmul (clampf x fNegOne fOne) o.amp)) o.amp = true := by
    intro x
    have hx := within_one_iff.mp (within_clampf x (by decide : fle fNegOne fOne = true))
    obtain ⟨hyf, hy⟩ := valIn_fmul_abs (isValue_val haf) hx ⟨haf, by linarith, le_rfl⟩ (one_mul _).le
    rw [fle_iff_val (by rwa [finite_fabs]) haf, val_fabs]
    exact abs_le.mpr hy
  rw [oscStep_rst]
  exact hmul _

end Sys2Proof.Machine
end

section
/-! The sine lookup (R143, R144), the waveforms (R153, R157 to R164) and the PolyBLEP correction (R165). -/

namespace Sys2Proof.Machine

open Sys2Proof.Safety

/-! ## The sine table (R143) -/

/-- The first quarter rises from 0, and its neighbours are near enough for an exact difference. -/
theorem sqTable_isChain : sqTable.IsChain fun x y => 0 ≤ fint x ∧ fint x < fint y ∧
    finite (fsub y x) = true ∧ fint (fsub y x) = fint y - fint x := by decide +kernel

theorem sineEntry_of_le {i : ℕ} (h : i ≤ 512) : sineEntry i = sineHalf i := if_pos h

/-- The second quarter is the first one read backwards. -/
theorem sineHalf_sub {i : ℕ} (h : i ≤ 512) : sineHalf (512 - i) = sineHalf i := by
  have hback : 512 - (512 - i) = i := by omega
  unfold sineHalf
  rcases lt_trichotomy i 256 with hi | rfl | hi
  · rw [if_neg (by omega), if_pos hi.le, hback]
  · rfl
  · rw [if_pos (by omega), if_neg (by omega)]

/-- The second half is the first one negated. -/
theorem sineEntry_add {i : ℕ} (h0 : 0 < i) (h : i < 512) : sineEntry (512 + i) = fneg (sineEntry i) := by
  rw [sineEntry_of_le h.le, sineEntry, if_neg (by omega), Nat.add_sub_cancel_left]

theorem sineHalf_quarter_step {i : ℕ} (hi : i < 256) :
    0 < fint (sineHalf (i + 1)) ∧ IsValue (val (sineHalf (i + 1)) - val (sineHalf i)) := by
  have hlen : sqTable.length = 257 := by decide +kernel
  have hget : ∀ j (hj : j ≤ 256), sineHalf j = sqTable[j]'(by omega) := fun j hj => by
    rw [sineHalf, if_pos hj, List.getD_eq_getElem]
  obtain ⟨h0, hlt, hf, hd⟩ := List.isChain_iff_getElem.mp sqTable_isChain i (by omega)
  rw [← hget i (by omega), ← hget (i + 1) (by omega)] at hlt hf hd
  rw [← hget i (by omega)] at h0
  refine ⟨by omega, fsub (sineHalf (i + 1)) (sineHalf i), hf, ?_⟩
  rw [val, hd, val, val, Int.cast_sub, sub_div]

theorem sineHalf_pos {i : ℕ} (h0 : 0 < i) (h : i < 512) : 0 < fint (sineHalf i) := by
  obtain ⟨j, rfl⟩ := Nat.exists_eq_add_of_lt h0
  rw [zero_add] at h ⊢
  by_cases hj : j < 256
  · exact (sineHalf_quarter_step hj).1
  · rw [← sineHalf_sub h.le, show 512 - (j + 1) = (510 - j) + 1 by omega]
    exact (sineHalf_quarter_step (by omega)).1

theorem isValue_sineHalf_step {i : ℕ} (hi : i < 512) : IsValue (val (sineHalf (i + 1)) - val (sineHalf i)) := by
  by_cases h : i < 256
  · exact (sineHalf_quarter_step h).2
  · have hstep := (sineHalf_quarter_step (i := 511 - i) (by omega)).2.neg
    rw [show 511 - i + 1 = 512 - i by omega, sineHalf_sub hi.le, show 511 - i = 512 - (i + 1) by omega,
      sineHalf_sub hi, neg_sub] at hstep
    exact hstep

/-- The second half in values, its ends included, which are +0 both. -/
theorem val_sineEntry_add {i : ℕ} (hi : i ≤ 512) : val (sineEntry ((512 + i) % 1024)) = -val (sineHalf i) := by
  obtain rfl | rfl | h : i = 0 ∨ i = 512 ∨ (0 < i ∧ i < 512) := by omega
  · rw [show sineEntry ((512 + 0) % 1024) = fZero by decide, show sineHalf 0 = fZero by decide, val_fZero, neg_zero]
  · rw [show sineEntry ((512 + 512) % 1024) = fZero by decide, show sineHalf 512 = fZero by decide, val_fZero,
      neg_zero]
  · rw [Nat.mod_eq_of_lt (by omega), sineEntry_add h.1 h.2, val_fneg, sineEntry_of_le hi]

/-- Neighbouring entries differ by a value, so that their difference is exact. -/
theorem isValue_sineEntry_step {i : ℕ} (hi : i < 1024) :
    IsValue (val (sineEntry ((i + 1) % 1024)) - val (sineEntry i)) := by
  by_cases h : i < 512
  · rw [Nat.mod_eq_of_lt (by omega), sineEntry_of_le h, sineEntry_of_le h.le]
    exact isValue_sineHalf_step h
  · obtain ⟨j, rfl⟩ := Nat.exists_eq_add_of_le (Nat.le_of_not_lt h)
    have hstep := (isValue_sineHalf_step (i := j) (by omega)).neg
    have hnow := val_sineEntry_add (i := j) (by omega)
    rw [Nat.mod_eq_of_lt hi] at hnow
    rwa [add_assoc, val_sineEntry_add (by omega), hnow, neg_sub_neg, ← neg_sub]

theorem valIn_one_sineEntry {i : ℕ} (hi : i < 1024) : ValIn (-1) 1 (sineEntry i) := by
  by_cases h : i ≤ 512
  · exact (valIn_sineEntry h).mono (by norm_num) le_rfl
  · obtain ⟨j, rfl⟩ := Nat.exists_eq_add_of_lt (Nat.lt_of_not_le h)
    obtain ⟨hf, h0, h1⟩ := valIn_sineEntry (i := j + 1) (by omega)
    rw [add_assoc, sineEntry_add j.succ_pos (by omega)]
    exact ⟨by rwa [finite_fneg], by rw [val_fneg]; linarith, by rw [val_fneg]; linarith⟩

/-- No entry is −0: an entry that is 0 is the +0 at the start of a half. -/
theorem sineEntry_ne_negZero {i : ℕ} (hi : i < 1024) : sineEntry i ≠ 0x80000000#32 := by
  have hzero : fint 0x80000000#32 = 0 := by decide
  by_cases h : i ≤ 512
  · obtain rfl | rfl | ⟨h0, hlt⟩ : i = 0 ∨ i = 512 ∨ (0 < i ∧ i < 512) := by omega
    · decide
    · decide
    · intro he
      have hpos := sineHalf_pos h0 hlt
      rw [← sineEntry_of_le h, he] at hpos
      omega
  · obtain ⟨j, rfl⟩ := Nat.exists_eq_add_of_lt (Nat.lt_of_not_le h)
    intro he
    have hpos := sineHalf_pos (i := j + 1) j.succ_pos (by omega)
    have hneg := fint_fneg (sineEntry (j + 1))
    rw [add_assoc, sineEntry_add j.succ_pos (by omega)] at he
    rw [he, sineEntry_of_le (by omega)] at hneg
    omega

/-! ## The lookup (R144) -/

/-- The weight of the interpolation is exact. -/
theorem valIn_sinlut_weight (a : Word) : ValIn ((a.toNat % 2 ^ 22 : ℕ) / 2 ^ 22) ((a.toNat % 2 ^ 22 : ℕ) / 2 ^ 22)
    (fmul (i2f (a.toNat % 2 ^ 22 : ℕ)) twoNeg22) := by
  have hk : a.toNat % 2 ^ 22 ≤ 2 ^ 24 := by omega
  have hv := isValue_natCast_div hk (e := 22) (by decide)
  have hi := valIn_i2f (n := (a.toNat % 2 ^ 22 : ℕ)) (by rw [Nat.abs_cast]; exact_mod_cast hk)
  rw [Int.cast_natCast] at hi
  apply valIn_fmul hv hv hi.finite (by decide) <;> rw [hi.eq, val_twoNeg22, mul_one_div]

/-- Interpolation between two values of a range stays in it, where their difference is exact. -/
theorem valIn_interpolate {a b : ℚ} (ha : IsValue a) (hb : IsValue b) {w x y : F32} (hw : ValIn 0 1 w)
    (hx : ValIn a b x) (hy : ValIn a b y) (hdv : IsValue (val y - val x)) :
    ValIn a b (fadd x (fmul w (fsub y x))) := by
  obtain ⟨hwf, hw0, hw1⟩ := hw
  obtain ⟨hxf, hxa, hxb⟩ := hx
  obtain ⟨hyf, hya, hyb⟩ := hy
  have hd := valIn_fsub hdv hdv hyf hxf le_rfl le_rfl
  have hde := hd.eq
  rcases le_total (val x) (val y) with h | h
  · obtain ⟨hmf, hm0, hm1⟩ := valIn_fmul isValue_zero hdv hwf hd.finite (by nlinarith) (by nlinarith)
    exact valIn_fadd ha hb hxf hmf (by linarith) (by linarith)
  · obtain ⟨hmf, hm0, hm1⟩ := valIn_fmul hdv isValue_zero hwf hd.finite (by nlinarith) (by nlinarith)
    exact valIn_fadd ha hb hxf hmf (by linarith) (by linarith)

theorem within_one_sinlut (a : Word) : within 0xBF800000#32 0x3F800000#32 (sinlut a) = true := by
  have hi : a.toNat / 2 ^ 22 < 1024 := by have := a.isLt; omega
  have hr : ((a.toNat % 2 ^ 22 : ℕ) : ℚ) ≤ 2 ^ 22 := by exact_mod_cast (Nat.mod_lt _ (by decide)).le
  have hw := (valIn_sinlut_weight a).mono (by positivity) (div_le_one_of_le₀ hr (by positivity))
  exact within_one_iff.mpr (valIn_interpolate isValue_one.neg isValue_one hw (valIn_one_sineEntry hi)
    (valIn_one_sineEntry (Nat.mod_lt _ (by decide))) (isValue_sineEntry_step hi))

/-- A zero added, of either sign, changes nothing but a −0. -/
theorem fadd_of_val_eq_zero {x y : F32} (hx : finite x = true) (hne : x ≠ 0x80000000#32) (hy : finite y = true)
    (h0 : val y = 0) : fadd x y = x := by
  by_cases hx0 : val x = 0
  · have hsum : val x + val y = 0 := by rw [hx0, h0, add_zero]
    rw [fadd_zero_sum hx hy hsum, if_neg fun h => hne h.1]
    rw [val_eq_zero_iff] at hx0
    have hsign : fsign x = false := by rwa [ne_eq, eq_negZero_iff hx0, Bool.not_eq_true] at hne
    have hpat : fpat x = 0 := by
      rw [fint_eq_zero_iff, fmag_eq, ← patMag_zero] at hx0
      exact patMag_strictMono.injective hx0
    rw [← pack_parts x, hsign, hpat]
    rfl
  · rw [val_eq_zero_iff] at hx0 h0
    obtain ⟨neg, e, hs⟩ := fadd_finite hx hy
    rw [h0, add_zero] at e hs
    have hneg : neg = fsign x := by
      rw [hs hx0, Bool.eq_iff_iff, decide_eq_true_iff]
      exact fint_neg_iff hx0
    have hp : fpat x ≤ 0x7F800000 := ((finite_iff_fpat x).mp hx).le
    rw [e, hneg, natAbs_fint, fmag_eq, roundUnits_patMag hp, pack_parts]

theorem sinlut_at_entry {i : ℕ} (hi : i < 1024) : sinlut (BitVec.ofNat 32 (i * 2 ^ 22)) = sineEntry i := by
  have ha : (BitVec.ofNat 32 (i * 2 ^ 22)).toNat = i * 2 ^ 22 := by rw [BitVec.toNat_ofNat]; omega
  have hw := valIn_sinlut_weight (BitVec.ofNat 32 (i * 2 ^ 22))
  have hx := (valIn_one_sineEntry hi).finite
  have hd := valIn_fsub (isValue_sineEntry_step hi) (isValue_sineEntry_step hi)
    (valIn_one_sineEntry (Nat.mod_lt _ (by decide))).finite hx le_rfl le_rfl
  simp only [sinlut, ha, Nat.mul_mod_left, Nat.mul_div_cancel _ (Nat.two_pow_pos 22), Nat.cast_zero, zero_div]
    at hw ⊢
  have hm := valIn_fmul isValue_zero isValue_zero hw.finite hd.finite (by rw [hw.eq, zero_mul])
    (by rw [hw.eq, zero_mul])
  exact fadd_of_val_eq_zero hx (sineEntry_ne_negZero hi) hm.finite hm.eq

/-- Settles O27: the weight and the difference of neighbouring entries are exact, so the interpolation stays
between the entries, and at an entry it adds a zero. -/
theorem sineLookupStaysInRange : Obligations.SineLookupStaysInRange :=
  ⟨fun acc => ⟨(valIn_sinlut_weight acc).eq, rfl⟩, fun _ => sinlut_at_entry,
    fun i hi => by rw [sineEntry_of_le (Nat.sub_le 512 i), sineEntry_of_le hi, sineHalf_sub hi],
    fun _ => sineEntry_add, within_one_sinlut⟩

/-! ## The naive waveforms (R157 to R161) -/

section NaiveWaveforms
variable {t : F32} {k : ℕ} {q : ℚ} (hk : k ≤ 2 ^ 24) (hq : q = k / 2 ^ 24) (ht : ValIn q q t)
include hk hq ht

theorem valIn_fmul_fTwo : ValIn (2 * q) (2 * q) (fmul t fTwo) := by
  have hv : IsValue (2 * q) := by
    convert isValue_natCast_div hk (e := 23) (by decide) using 1
    rw [hq]
    ring
  apply valIn_fmul hv hv ht.finite (by decide) <;> rw [ht.eq, val_fTwo, mul_comm]

theorem valIn_waveSaw : ValIn (1 - 2 * q) (1 - 2 * q) (waveSaw t) := by
  have h2 := valIn_fmul_fTwo hk hq ht
  have hv : IsValue (1 - 2 * q) := by
    convert isValue_intCast_div (k := 2 ^ 23 - k) (by rw [abs_le]; omega) (e := 23) (by decide) using 1
    rw [hq]
    push_cast
    ring
  apply valIn_fsub hv hv (by decide) h2.finite <;> rw [val_fOne, h2.eq]

/-- Every intermediate result is a multiple of 2^-23 of at most 24 bits. -/
theorem valIn_waveTri : ValIn (2 * |2 * q - 1| - 1) (2 * |2 * q - 1| - 1) (waveTri t) := by
  obtain ⟨j, hj, hqj⟩ : ∃ j : ℤ, |j| ≤ 2 ^ 23 ∧ 2 * q - 1 = j / 2 ^ 23 :=
    ⟨k - 2 ^ 23, by rw [abs_le]; omega, by rw [hq]; push_cast; ring⟩
  have habs : |2 * q - 1| = (|j| : ℤ) / 2 ^ 23 := by
    rw [hqj, abs_div, abs_of_pos (by positivity : (0 : ℚ) < 2 ^ 23), Int.cast_abs]
  have hshift : IsValue (2 * q - 1) := hqj ▸ isValue_intCast_div (by omega) (by decide)
  have hfold : IsValue (|2 * q - 1| * 2) := by
    convert isValue_intCast_div (k := |j|) (by rw [abs_abs]; omega) (e := 22) (by decide) using 1
    rw [habs]
    ring
  have hout : IsValue (2 * |2 * q - 1| - 1) := by
    convert isValue_intCast_div (k := 2 * |j| - 2 ^ 23) (by rw [abs_le]; have := abs_nonneg j; omega) (e := 23)
      (by decide) using 1
    rw [habs]
    push_cast
    ring
  have h2 := valIn_fmul_fTwo hk hq ht
  have h3 : ValIn (2 * q - 1) (2 * q - 1) (fsub (fmul t fTwo) fOne) := by
    apply valIn_fsub hshift hshift h2.finite (by decide) <;> rw [h2.eq, val_fOne]
  have h4 : ValIn (|2 * q - 1| * 2) (|2 * q - 1| * 2) (fmul (fabs (fsub (fmul t fTwo) fOne)) fTwo) := by
    apply valIn_fmul hfold hfold (by rw [finite_fabs]; exact h3.finite) (by decide) <;>
      rw [val_fabs, h3.eq, val_fTwo]
  apply valIn_fsub hout hout h4.finite (by decide) <;> rw [h4.eq, val_fOne, mul_comm]

end NaiveWaveforms

/-- Settles O25: `wave` written out, and each operation of the naive waveforms has a value of at most 24 bits. -/
theorem naiveWaveformsAreExact : Obligations.NaiveWaveformsAreExact := by
  refine ⟨fun o t dt pwe => ?_, fun o dt pwe hpwe => ?_⟩
  · cases hw : o.wave <;> simp only [wave, hw] <;> rfl
  · have ht := valIn_frac24 o.acc
    have hk : o.acc.toNat / 256 ≤ 2 ^ 24 := by have := o.acc.isLt; omega
    refine ⟨ht.finite, ht.eq, fun hw => ?_, fun hw => ?_, fun hw => ?_, fun hw => ?_⟩ <;> simp only [wave, hw]
    · exact ⟨(valIn_waveTri hk rfl ht).finite, (valIn_waveTri hk rfl ht).eq⟩
    · exact ⟨(valIn_waveSaw hk rfl ht).finite, (valIn_waveSaw hk rfl ht).eq⟩
    · exact ⟨ht.finite, ht.eq⟩
    · have hlt : flt (frac24 o.acc) pwe = true ↔ ((o.acc.toNat / 256 : ℕ) : ℚ) / 2 ^ 24 < val pwe := by
        rw [flt_iff_val ht.finite hpwe, ht.eq]
      simp only [waveSquare, hlt]
      rfl

/-! ## The PolyBLEP correction (R164, R165) -/

/-- Near DC no position is within an increment of the edge. -/
theorem blep_of_inc_lt {t : F32} (ht : ValIn 0 1 t) {inc : Word} (hinc : inc.toNat < 256) :
    blep t (frac24 inc) = fZero := by
  have hd : ValIn 0 0 (frac24 inc) := by
    have h := valIn_frac24 inc
    rwa [Nat.div_eq_of_lt hinc, Nat.cast_zero, zero_div] at h
  have hone : ValIn 1 1 (fsub fOne (frac24 inc)) :=
    valIn_fsub isValue_one isValue_one (by decide) hd.finite (by rw [val_fOne, hd.eq, sub_zero])
      (by rw [val_fOne, hd.eq, sub_zero])
  rw [blep, if_neg, if_neg]
  · rw [flt_iff_val hone.finite ht.finite, hone.eq]
    exact ht.ge.not_gt
  · rw [flt_iff_val ht.finite hd.finite, hd.eq]
    exact ht.le.not_gt

/-- The position relative to the falling edge, taken back into the cycle (R164). -/
theorem valIn_edge_position {t p : F32} (ht : ValIn 0 1 t) (hp : ValIn 0 1 p) :
    ValIn 0 1 (if flt (fsub t p) fZero then fadd (fsub t p) fOne else fsub t p) := by
  obtain ⟨huf, hu0, hu1⟩ := valIn_fsub isValue_one.neg isValue_one ht.finite hp.finite
    (by linarith [ht.le, hp.ge]) (by linarith [ht.ge, hp.le])
  split
  next h =>
    rw [flt_iff_val huf (by decide), val_fZero] at h
    exact valIn_fadd isValue_zero isValue_one huf (by decide) (by rw [val_fOne]; linarith)
      (by rw [val_fOne]; linarith)
  next h =>
    rw [flt_iff_val huf (by decide), val_fZero, not_lt] at h
    exact ⟨huf, h, hu1⟩

/-- Settles O26: a position that is corrected is within an increment of the edge, so the distance that is squared
is at most 1. -/
theorem blepCorrectionIsBounded : Obligations.BlepCorrectionIsBounded :=
  ⟨fun _ _ => rfl,
    fun _ _ ht hinc => ⟨within_one_iff.mpr (valIn_blep (inUnit_iff.mp ht) hinc), blep_of_inc_lt (inUnit_iff.mp ht)⟩,
    fun acc _ hp => ⟨inUnit_iff.mpr (valIn_unit_frac24 acc),
      inUnit_iff.mpr (valIn_edge_position (valIn_unit_frac24 acc) (inUnit_iff.mp hp))⟩⟩

end Sys2Proof.Machine
end

section
/-! The envelope's commands and its tick (R201 to R210). -/

namespace Sys2Proof.Machine

open Sys2Proof.Safety

/-! ## Settings (R202 to R204, R208) -/

/-- A command that answers nothing writes back the selected envelope and nothing else. -/
theorem onEnv_setting {s : State} {op : Op} {tgt a : Byte} {e : Env} {put : Env → State} (f : Env → Env)
    (h : EnvAt s tgt a e put) : onEnv s op tgt a (fun x => (f x, [])) = put (f e) :=
  (onEnv_at _ h).trans (State.respond_nil _)

/-- Settles O28: each setter runs on the selected envelope and writes its one register. -/
theorem envSettersStoreIncrements : Obligations.EnvSettersStoreIncrements := fun s _ _ _ _ x h =>
  ⟨congrArg Host.Outcome.next (onEnv_setting (fun y => envSetAttack s.sampleRate y x) h),
    congrArg Host.Outcome.next (onEnv_setting (fun y => envSetDecay s.sampleRate y x) h),
    congrArg Host.Outcome.next (onEnv_setting (fun y => envSetRelease s.sampleRate y x) h),
    congrArg Host.Outcome.next (onEnv_setting (fun y => envSetSustain y x) h)⟩

/-! ## The gate (R205, R209) -/

/-- The stage that gate `g` leaves. -/
def stageOfGate (e : Env) (g : Bool) : Stage :=
  if g = true ∧ e.gate = false then .attack
  else if g = false ∧ e.gate = true ∧ e.stage ≠ .idle then .release
  else e.stage

/-- The gate's conditions, which `setGate` tests as Booleans, as propositions. -/
theorem setGate_eq (e : Env) (g : Bool) : setGate e g = { e with gate := g, stage := stageOfGate e g } := by
  have hrise : (g && !e.gate) = true ↔ g = true ∧ e.gate = false := by
    rw [Bool.and_eq_true, Bool.not_eq_true']
  have hfall : (!g && e.gate && decide (e.stage ≠ .idle)) = true ↔
      g = false ∧ e.gate = true ∧ e.stage ≠ .idle := by
    rw [Bool.and_eq_true, Bool.and_eq_true, Bool.not_eq_true', decide_eq_true_iff, and_assoc]
  simp only [setGate, stageOfGate, hrise, hfall]
  split
  · rfl
  · split <;> rfl

/-- Settles O29: the gate command runs `setGate` on the selected envelope. -/
theorem envGateActsOnEdges : Obligations.EnvGateActsOnEdges := fun _ _ _ e put g h =>
  congrArg Host.Outcome.next
    ((onEnv_setting (fun y => setGate y g) h).trans (congrArg put (setGate_eq e g)))

/-! ## The tick (R206, R210) -/

section Tick
variable {e : Env}

theorem envTick_of_idle (h : e.stage = .idle) : envTick e = { e with level := fZero } := by
  simp only [envTick, h]

theorem envTick_of_attack (h : e.stage = .attack) : envTick e =
    if fle fOne (fadd e.level e.aInc) then { e with level := fOne, stage := .decay }
    else { e with level := fadd e.level e.aInc } := by
  simp only [envTick, h]

theorem envTick_of_decay (h : e.stage = .decay) : envTick e =
    if fle (fsub e.level e.dInc) e.sus then { e with level := e.sus, stage := .sustain }
    else { e with level := fsub e.level e.dInc } := by
  simp only [envTick, h]

theorem envTick_of_sustain (h : e.stage = .sustain) : envTick e = { e with level := e.sus } := by
  simp only [envTick, h]

theorem envTick_of_release (h : e.stage = .release) : envTick e =
    if fle (fsub e.level e.rInc) fZero then { e with level := fZero, stage := .idle }
    else { e with level := fsub e.level e.rInc } := by
  simp only [envTick, h]

/-- A stage that moves the level ends at its limit or goes on: stage and level of either outcome. -/
theorem stage_level_of_ite {e' : Env} {c : Bool} {st st' : Stage} {l lim : F32} (hst : e.stage = st)
    (h : e' = if c then { e with level := lim, stage := st' } else { e with level := l }) :
    if c then e'.stage = st' ∧ e'.level = lim else e'.stage = st ∧ e'.level = l := by
  subst h hst
  cases c <;> exact ⟨rfl, rfl⟩

end Tick

/-- A tick writes the stage and the level alone. -/
theorem envTick_eq (e : Env) : envTick e = { e with stage := (envTick e).stage, level := (envTick e).level } := by
  cases h : e.stage with
  | idle => rw [envTick_of_idle h]
  | attack => rw [envTick_of_attack h]; split <;> rfl
  | decay => rw [envTick_of_decay h]; split <;> rfl
  | sustain => rw [envTick_of_sustain h]
  | release => rw [envTick_of_release h]; split <;> rfl

/-- Settles O30: one tick of the envelope whose gate is set, by the stage that the gate leaves. -/
theorem envProcessTicksOnce : Obligations.EnvProcessTicksOnce := by
  refine ⟨fun s tgt a e put g h => ?_, fun s tgt a g h => exec_of_invalid_target (i := .envProcess tgt a g) h⟩
  have hproc := (exec_envProcess h g).trans (congrArg Host.Outcome.next ((replaces_of_envAt h).respond _ _))
  rw [envProcess, setGate_eq, envTick_eq] at hproc
  refine ⟨_, _, hproc, fun hst => ?_, fun hst => ?_, fun hst => ?_, fun hst => ?_, fun hst => ?_⟩
  · rw [envTick_of_idle hst]; exact ⟨hst, rfl⟩
  · exact stage_level_of_ite hst (envTick_of_attack hst)
  · exact stage_level_of_ite hst (envTick_of_decay hst)
  · rw [envTick_of_sustain hst]; exact ⟨hst, rfl⟩
  · exact stage_level_of_ite hst (envTick_of_release hst)

end Sys2Proof.Machine
end

section
/-! The filter's commands and its step (R241 to R247, R251 to R253). -/

namespace Sys2Proof.Machine

open Sys2Proof.Safety

section Commands
variable {s : State} {tgt a : Byte}

/-! ## Settings (R244, R245) -/

theorem onFilter_ladder_setting {op : Op} {f : Ladder} {put : Ladder → State} (fl : Ladder → Ladder)
    (fs : Svf → Svf × List Word) (h : LadderAt s tgt a f put) :
    onFilter s op tgt a (fun x => (fl x, [])) fs = put (fl f) :=
  (onFilter_ladder _ _ h).trans (State.respond_nil _)

theorem onFilter_svf_setting {op : Op} {f : Svf} {put : Svf → State} (fl : Ladder → Ladder × List Word)
    (fs : Svf → Svf) (h : SvfAt s tgt a f put) : onFilter s op tgt a fl (fun x => (fs x, [])) = put (fs f) :=
  (onFilter_svf _ _ h).trans (State.respond_nil _)

/-! ## Samples (R246, R247) -/

/-- A command that answers one sample of the selected ladder writes the ladder back and appends the sample. -/
theorem onFilter_ladder_sample {op : Op} {f : Ladder} {put : Ladder → State} (fl : Ladder → Ladder × F32)
    (fs : Svf → Svf × List Word) (h : LadderAt s tgt a f put) :
    onFilter s op tgt a (fun x => sampleResponse (fl x)) fs =
      { put (fl f).1 with respOut := s.respOut ++ [(fl f).2] } :=
  (onFilter_ladder _ _ h).trans ((replaces_of_ladderAt h).respond _ _)

/-- A command that answers one sample of the selected SVF writes the SVF back and appends the sample. -/
theorem onFilter_svf_sample {op : Op} {f : Svf} {put : Svf → State} (fl : Ladder → Ladder × List Word)
    (fs : Svf → Svf × F32) (h : SvfAt s tgt a f put) :
    onFilter s op tgt a fl (fun x => sampleResponse (fs x)) =
      { put (fs f).1 with respOut := s.respOut ++ [(fs f).2] } :=
  (onFilter_svf _ _ h).trans ((replaces_of_svfAt h).respond _ _)

end Commands

/-! ## The phase of a cutoff (R251) -/

/-- The quotient that gives a frequency's phase step in units of `2 ^ (e + 1)` to a cycle, as R145 and R251 have it,
is rounded to nearest and fits a word. -/
theorem isRneInt_cycle {sr : ℕ} (hsr : 0 < sr) {x : F32} (hx : ValIn 0 (sr / 2) x) {e : ℕ} (he : e < 32) :
    IsRneInt (val x * 2 ^ (e + 1) / sr) (u32 (rneInt (fint x * 2 ^ (e + 1)) (2 ^ 149 * sr))).toNat := by
  obtain ⟨-, h0, h1⟩ := hx
  have hr := isRneInt_rneInt (fint x * 2 ^ (e + 1)) (b := 2 ^ 149 * sr) (by positivity)
  have hq : ((fint x * 2 ^ (e + 1) : ℤ) : ℚ) / (2 ^ 149 * sr : ℕ) = val x * 2 ^ (e + 1) / sr := by
    rw [val, div_mul_eq_mul_div, div_div]
    push_cast
    rfl
  rw [hq] at hr
  have hle : val x * 2 ^ (e + 1) / sr ≤ (2 ^ e : ℕ) := by
    rw [div_le_iff₀ (by exact_mod_cast hsr)]
    calc val x * 2 ^ (e + 1) ≤ sr / 2 * 2 ^ (e + 1) := by gcongr
      _ = (2 ^ e : ℕ) * sr := by push_cast; ring
  rwa [toNat_u32_of_isRneInt hr (by positivity) hle (Nat.pow_lt_pow_right one_lt_two he)]

/-- Settles O31: each setter runs on the selected filter and writes the clamped request with its coefficient; the
cutoff's phase in the SVF's coefficient is the quotient rounded once. -/
theorem fltSettersStoreCoefficients : Obligations.FltSettersStoreCoefficients := by
  intro s tgt a x hp
  obtain ⟨hlo, hhi, -⟩ := paramsOk_iff.mp hp
  refine ⟨fun f put h => ⟨?_, ?_⟩, fun f put h =>
    ⟨⟨_, isRneInt_cycle (by omega) (valIn_clampf_fcMax hhi x) (e := 30) (by decide), ?_⟩, ?_⟩⟩
  · exact congrArg Host.Outcome.next (onFilter_ladder_setting (fun y => ladderSetFreq s.sampleRate y x) _ h)
  · exact congrArg Host.Outcome.next (onFilter_ladder_setting (fun y => ladderSetRes y x) _ h)
  · exact congrArg Host.Outcome.next (onFilter_svf_setting _ (fun y => svfSetFreq s.sampleRate y x) h)
  · exact congrArg Host.Outcome.next (onFilter_svf_setting _ (fun y => svfSetRes y x) h)

/-- Settles O32: the commands run one step on the selected filter, `FLT_PROCESS_MOD` with the coefficient of its own
cutoff, and answer the step's sample. -/
theorem fltProcessRunsOneStep : Obligations.FltProcessRunsOneStep := by
  refine ⟨fun s tgt a x fc => ⟨fun f put h => ⟨?_, ?_⟩, fun f put h => ⟨?_, ?_⟩⟩,
    fun s tgt a x h => exec_of_invalid_target (i := .fltProcess tgt a x) h⟩
  · exact congrArg Host.Outcome.next (onFilter_ladder_sample (fun y => ladderProcess y x) _ h)
  · exact congrArg Host.Outcome.next (onFilter_ladder_sample (fun y => ladderProcessMod s.sampleRate y x fc) _ h)
  · exact congrArg Host.Outcome.next (onFilter_svf_sample _ (fun y => svfProcess y x) h)
  · exact congrArg Host.Outcome.next (onFilter_svf_sample _ (fun y => svfProcessMod s.sampleRate y x fc) h)

end Sys2Proof.Machine
end

section
/-! The noise source: its LFSR step is a permutation of the words, and its commands run on the selected unit (R280
to R283). -/

namespace Sys2Proof.Machine

open Sys2Proof.Safety

/-! ## The LFSR step (R280) -/

/-- The mask's bit 31 falls on the bit that the shift leaves 0, so the new top bit is the bit shifted out. -/
theorem getLsbD_31_lfsrNext (st : Word) : (lfsrNext st).getLsbD 31 = st.getLsbD 0 := by
  simp only [lfsrNext]
  split
  next h => simp [h, lfsrMask]
  next h => simpa using h

/-- The bit shifted out and the rest of the word together are the word. -/
theorem eq_of_lsb_eq_of_ushiftRight_one_eq {a b : Word} (h0 : a.getLsbD 0 = b.getLsbD 0)
    (hsh : a >>> 1 = b >>> 1) : a = b := by
  refine BitVec.eq_of_getLsbD_eq fun i _ => ?_
  cases i with
  | zero => exact h0
  | succ j => simpa [Nat.add_comm] using congrArg (·.getLsbD j) hsh

/-- The new top bit tells whether the mask was applied; undoing it gives back the shifted word. -/
theorem lfsrNext_injective : Function.Injective lfsrNext := by
  intro a b h
  have h0 : a.getLsbD 0 = b.getLsbD 0 := by rw [← getLsbD_31_lfsrNext, h, getLsbD_31_lfsrNext]
  refine eq_of_lsb_eq_of_ushiftRight_one_eq h0 ?_
  simp only [lfsrNext, h0] at h
  split at h
  · exact (BitVec.xor_left_inj _).mp h
  · exact h

/-- Settles O35: an injection of the finitely many words is a bijection. -/
theorem lfsrStepIsInvertible : Obligations.LfsrStepIsInvertible :=
  ⟨Finite.injective_iff_bijective.mp lfsrNext_injective, fun _ h => lfsrNext_ne_zero h⟩

/-! ## Commands (R281 to R283) -/

/-- R8's two's-complement value of a word is the one of the library. -/
theorem s32_eq_toInt (w : Word) : s32 w = w.toInt := by
  rw [s32, BitVec.toInt_eq_toNat_cond]
  split <;> split <;> omega

theorem noiseStep_eq (n : Noise) : noiseStep n = ({ n with state := lfsrNext n.state },
    fmul (fmul (f32 (lfsrNext n.state).toInt 1) twoNeg31) n.amp) := by
  rw [noiseStep, s32_eq_toInt, i2f]

/-- A command that answers nothing writes back the selected noise unit and nothing else. -/
theorem onNoise_setting {s : State} {op : Op} {tgt : Byte} {n : Noise} {put : Noise → State} (f : Noise → Noise)
    (h : NoiseAt s tgt n put) : onNoise s op tgt (fun x => (f x, [])) = put (f n) :=
  (onNoise_at _ h).trans (State.respond_nil _)

/-- `NOISE_PROCESS` writes back the stepped unit and appends its sample. -/
theorem exec_noiseProcess {s : State} {tgt : Byte} {n : Noise} {put : Noise → State} (h : NoiseAt s tgt n put) :
    exec (.noiseProcess tgt) s =
      .next { put (noiseStep n).1 with respOut := s.respOut ++ [(noiseStep n).2] } :=
  congrArg Host.Outcome.next ((onNoise_at _ h).trans ((replaces_of_noiseAt h).respond _ _))

/-- Settles O34: the setters write their one register of the selected unit, and `NOISE_PROCESS` runs one step. -/
theorem noiseCommandsActOnTheirUnit : Obligations.NoiseCommandsActOnTheirUnit := by
  refine ⟨fun s tgt n put x h => ⟨?_, ?_, ?_⟩, fun s tgt h => exec_of_invalid_target (i := .noiseProcess tgt) h⟩
  · exact congrArg Host.Outcome.next (onNoise_setting (fun y => noiseSetAmp y x) h)
  · exact congrArg Host.Outcome.next (onNoise_setting (fun y => noiseSeed y x) h)
  · have hproc := exec_noiseProcess h
    rw [noiseStep_eq] at hproc
    exact hproc

end Sys2Proof.Machine
end

section
/-! One voice: its state machine (R300), its notes (R301 to R303) and its sample tick (R311 to R313). -/

namespace Sys2Proof.Machine

open Sys2Proof.Safety

/-! ## The derived voice state (R40) -/

section VoiceState
variable {v w : Voice}

theorem active_iff : active v = true ↔ v.env0.stage ≠ .idle := decide_eq_true_iff

theorem active_eq_false_iff : active v = false ↔ v.env0.stage = .idle := by
  rw [← Bool.not_eq_true, active_iff, not_not]

theorem vstate_eq_inactive_iff : vstate v = .inactive ↔ v.env0.stage = .idle := by
  rw [← active_eq_false_iff, vstate]
  cases active v <;> cases v.env0.gate <;> decide

theorem vstate_eq_held_iff : vstate v = .held ↔ v.env0.stage ≠ .idle ∧ v.env0.gate = true := by
  rw [← active_iff, vstate]
  cases active v <;> cases v.env0.gate <;> decide

theorem vstate_eq_released_iff : vstate v = .released ↔ v.env0.stage ≠ .idle ∧ v.env0.gate = false := by
  rw [← active_iff, vstate]
  cases active v <;> cases v.env0.gate <;> decide

/-- The state is read off the stage and the gate of the amplitude envelope alone. -/
theorem vstate_congr (hstage : w.env0.stage = v.env0.stage) (hgate : w.env0.gate = v.env0.gate) :
    vstate w = vstate v := by
  unfold vstate active isRunning
  rw [hstage, hgate]

end VoiceState

section Envelope
variable {e : Env}

/-- A gate of 1 holds its stage, so the envelope is not IDLE. -/
theorem stage_ne_idle_of_gate (hok : envOk e = true) (hgate : e.gate = true) : e.stage ≠ .idle := by
  obtain ⟨-, -, -, -, -, -, htie⟩ := envOk_iff.mp hok
  intro hidle
  rw [hgate, hidle] at htie
  cases htie

/-- RELEASE is the only running stage that a gate of 0 leaves. -/
theorem stage_eq_release_of_not_gate (hok : envOk e = true) (hgate : e.gate = false) (hrun : e.stage ≠ .idle) :
    e.stage = .release := by
  obtain ⟨-, -, -, -, -, -, htie⟩ := envOk_iff.mp hok
  rw [hgate] at htie
  cases hst : e.stage with
  | release => rfl
  | idle => exact absurd hst hrun
  | attack | decay | sustain => rw [hst] at htie; cases htie

end Envelope

/-- Writing the gate that the envelope has is no edge. -/
theorem setGate_gate (e : Env) : setGate e e.gate = e := by
  obtain ⟨_, _, gate, _, _, _, _⟩ := e
  cases gate <;> rfl

/-! ## Notes (R301 to R303) -/

theorem toNat_clampRaw (b : Byte) : (clampRaw b).toNat = min b.toNat 127 := by
  rw [clampRaw, BitVec.toNat_ofNat]
  omega

section Commands
variable {s : State} {tgt : Byte} {v : Voice} {put : Voice → State}

theorem replaces_of_voiceAt (h : VoiceAt s tgt v put) : Replaces s v put := by
  obtain ⟨hv, rfl⟩ := h
  exact replaces_in_voice hv id rfl

theorem exec_voiceNoteOn (h : VoiceAt s tgt v put) (note vel : Byte) :
    exec (.voiceNoteOn tgt note vel) s =
      .next (put (voiceNoteOn s.sampleRate s.panel v (clampRaw note) (clampRaw vel))) :=
  congrArg Host.Outcome.next ((onVoice_at _ h).trans (State.respond_nil _))

theorem exec_voiceNoteOff (h : VoiceAt s tgt v put) :
    exec (.voiceNoteOff tgt) s = .next (put (voiceNoteOff v)) :=
  congrArg Host.Outcome.next ((onVoice_at _ h).trans (State.respond_nil _))

theorem exec_voiceProcess (h : VoiceAt s tgt v put) :
    exec (.voiceProcess tgt) s = .next
      { put (voiceTick s.sampleRate s.panel v s.lfoLast).1 with
        respOut := s.respOut ++ [(voiceTick s.sampleRate s.panel v s.lfoLast).2] } :=
  congrArg Host.Outcome.next ((onVoice_at _ h).trans ((replaces_of_voiceAt h).respond _ _))

end Commands

/-- Settles O38: the commands run note-on and note-off on the selected voice, whose gates are `setGate`'s and whose
second frequency is the clamped note's, detuned. -/
theorem voiceNotesSetPitchAndGate : Obligations.VoiceNotesSetPitchAndGate := by
  intro s tgt v put h
  refine ⟨fun note vel => ?_, ?_⟩
  · rw [exec_voiceNoteOn h, voiceNoteOn, osc1Freq, toNat_clampRaw, setGate_eq, setGate_eq]
    rfl
  · rw [exec_voiceNoteOff h, voiceNoteOff, setGate_eq, setGate_eq]
    rfl

/-! ## The sample tick (R308, R311, R312) -/

section Tick
variable {v : Voice}

theorem voiceTick_of_idle (sr : ℕ) (P : Panel) (l : F32) (h : v.env0.stage = .idle) :
    voiceTick sr P v l = (v, fZero) := by
  rw [voiceTick, active_eq_false_iff.mpr h]
  rfl

theorem voiceTick_env0 (sr : ℕ) (P : Panel) (l : F32) (h : v.env0.stage ≠ .idle) :
    (voiceTick sr P v l).1.env0 = envTick v.env0 := by
  simp only [voiceTick, active_iff.mpr h, if_true]
  split <;> rfl

end Tick

/-- The switch of the second oscillator as a choice of each result (R308). -/
theorem voiceOscs_eq (P : Panel) (v : Voice) (l : F32) :
    let fm := fmul l (P.scaledOf .fmDepth)
    let pwm := fmul l (P.scaledOf .lfoPwDepth)
    let o1 := oscStep v.osc0 fm pwm false
    let o2 := oscStep v.osc1 fm pwm (switchOn (P.rawOf .syncEnable) && o1.1.eoc)
    let two := switchOn (P.rawOf .osc2Enable)
    voiceOscs P v l = (o1.1, if two then o2.1 else v.osc1, if two then fmul (fadd o1.2 o2.2) fHalf else o1.2) := by
  simp only [voiceOscs]
  split <;> rfl

/-- Settles O39: `VOICE_PROCESS` runs the tick on the selected voice; the tick of an active voice is the path written
out, once the filter's switch is read. -/
theorem voiceProcessRunsTheSignalPath : Obligations.VoiceProcessRunsTheSignalPath := by
  refine ⟨fun s tgt v put h => exec_voiceProcess h, fun s tgt h => exec_of_invalid_target (i := .voiceProcess tgt) h,
    fun sr P v l h => voiceTick_of_idle sr P l h, fun sr P v l h => ?_⟩
  simp only [voiceTick, active_iff.mpr h, if_true, voiceOscs_eq, switchOn, decide_eq_true_iff]
  rfl

/-! ## The state machine (R300) -/

theorem vstate_voiceNoteOn (sr : ℕ) (P : Panel) {v : Voice} (n vel : Raw) (hok : envOk v.env0 = true) :
    vstate (voiceNoteOn sr P v n vel) = .held := by
  have hgate : (setGate v.env0 true).gate = true := by rw [setGate_eq]
  exact vstate_eq_held_iff.mpr ⟨stage_ne_idle_of_gate (envOk_setGate true hok) hgate, hgate⟩

theorem vstate_voiceNoteOff {v : Voice} (hok : envOk v.env0 = true) :
    vstate (voiceNoteOff v) = if vstate v = .held then .released else vstate v := by
  cases hgate : v.env0.gate with
  | false =>
    have hnot : vstate v ≠ .held := fun h =>
      Bool.false_ne_true (hgate.symm.trans (vstate_eq_held_iff.mp h).2)
    have hsame : setGate v.env0 false = v.env0 := hgate ▸ setGate_gate v.env0
    rw [if_neg hnot]
    exact vstate_congr (congrArg Env.stage hsame) (congrArg Env.gate hsame)
  | true =>
    have hrun := stage_ne_idle_of_gate hok hgate
    have hoff : (voiceNoteOff v).env0 = { v.env0 with gate := false, stage := .release } := by
      simp [voiceNoteOff, setGate, hgate, hrun]
    rw [if_pos (vstate_eq_held_iff.mpr ⟨hrun, hgate⟩), vstate_eq_released_iff, hoff]
    exact ⟨nofun, rfl⟩

section Tick
variable {v : Voice} (sr : ℕ) (P : Panel) (l : F32)

/-- A tick keeps the gate, and the gate holds the stage that the tick leads to. -/
theorem vstate_voiceTick_of_held (hok : envOk v.env0 = true) (h : vstate v = .held) :
    vstate (voiceTick sr P v l).1 = .held := by
  obtain ⟨hrun, hgate⟩ := vstate_eq_held_iff.mp h
  rw [vstate_eq_held_iff, voiceTick_env0 sr P l hrun]
  replace hgate : (envTick v.env0).gate = true := by rw [envTick_eq, hgate]
  exact ⟨stage_ne_idle_of_gate (envOk_envTick hok) hgate, hgate⟩

theorem vstate_voiceTick_of_released (hok : envOk v.env0 = true) (h : vstate v = .released) :
    vstate (voiceTick sr P v l).1 =
      if fle (fsub v.env0.level v.env0.rInc) fZero then .inactive else .released := by
  obtain ⟨hrun, hgate⟩ := vstate_eq_released_iff.mp h
  have hst := stage_eq_release_of_not_gate hok hgate hrun
  have henv := (voiceTick_env0 sr P l hrun).trans (envTick_of_release hst)
  split at henv
  next hend => rw [if_pos hend, vstate_eq_inactive_iff, henv]
  next hend => rw [if_neg hend, vstate_eq_released_iff, henv]; exact ⟨hrun, hgate⟩

end Tick

/-! ## What leaves every voice's state (R300) -/

section SharedOperations
variable {s : State} {op : Op} {tgt a : Byte}

theorem map_vstate_onVoiceAt {i : ℕ} {f : Voice → Voice × List Word} (hf : ∀ x, vstate (f x).1 = vstate x) :
    (onVoiceAt s op i f).voices.map vstate = s.voices.map vstate := by
  cases hx : s.voices[i]? with
  | none => rw [onVoiceAt_none f hx, State.invalidTarget_voices]
  | some x =>
    rw [onVoiceAt_some f hx, State.respond_voices, State.setVoice_voices, List.map_set, hf, ← List.map_set]
    obtain ⟨hi, rfl⟩ := List.getElem?_eq_some_iff.mp hx
    rw [List.set_getElem_self]

theorem map_vstate_onVoice {f : Voice → Voice × List Word} (hf : ∀ x, vstate (f x).1 = vstate x) :
    (onVoice s op tgt f).voices.map vstate = s.voices.map vstate := by
  unfold onVoice
  split
  · rfl
  · exact map_vstate_onVoiceAt hf

theorem map_vstate_onNoise (f : Noise → Noise × List Word) :
    (onNoise s op tgt f).voices.map vstate = s.voices.map vstate := map_vstate_onVoice fun _ => rfl

theorem map_vstate_onOsc (f : Osc → Osc × List Word) :
    (onOsc s op tgt a f).voices.map vstate = s.voices.map vstate := by
  unfold onOsc
  split
  · rfl
  · rfl
  next k _ => exact map_vstate_onVoiceAt fun _ => by cases k <;> rfl

theorem map_vstate_onEnv {f : Env → Env × List Word} (hstage : ∀ e, (f e).1.stage = e.stage)
    (hgate : ∀ e, (f e).1.gate = e.gate) : (onEnv s op tgt a f).voices.map vstate = s.voices.map vstate := by
  unfold onEnv
  split
  · rfl
  next k _ =>
    refine map_vstate_onVoiceAt fun x => ?_
    cases k with
    | zero => exact vstate_congr (hstage _) (hgate _)
    | one => rfl

theorem map_vstate_onFilter (fl : Ladder → Ladder × List Word) (fs : Svf → Svf × List Word) :
    (onFilter s op tgt a fl fs).voices.map vstate = s.voices.map vstate := by
  unfold onFilter
  split
  · rfl
  · exact map_vstate_onVoiceAt fun _ => rfl
  · exact map_vstate_onVoiceAt fun _ => rfl

end SharedOperations

/-- A fan-out sets increments and levels; no parameter reaches a stage or a gate (R382). -/
theorem vstate_fanoutVoice (sr : ℕ) (P : Panel) (p : Param) (v : Voice) :
    vstate (fanoutVoice sr P p v) = vstate v := by
  cases p <;> rfl

theorem exec_map_vstate {i : Instr} {s t : State} (hi : actsOnLifecycle i = false) (h : exec i s = .next t) :
    t.voices.map vstate = s.voices.map vstate := by
  cases i with
  | noteOn | noteOff | render | reset | envSetGate | envProcess | voiceNoteOn | voiceNoteOff | voiceProcess => cases hi
  | nop => cases h; rfl
  | controlChange id value =>
    simp only [exec, execControlChange] at h
    split at h <;> cases h
    · rfl
    · exact List.map_map.trans (List.map_congr_left fun v _ => vstate_fanoutVoice _ _ _ v)
  | readParam id =>
    simp only [exec, execReadParam] at h
    split at h <;> cases h <;> rfl
  | readVoice => cases h; exact map_vstate_onVoice fun _ => rfl
  | oscSetFreq | oscSetWaveform | oscSetAmp | oscSetPw | oscPhaseAdd | oscReset | oscProcess | oscProcessMod
  | oscRead => cases h; exact map_vstate_onOsc _
  | envSetAttack | envSetDecay | envSetSustain | envSetRelease | envRead =>
    cases h; exact map_vstate_onEnv (fun _ => rfl) fun _ => rfl
  | fltSetFreq | fltSetRes | fltProcess | fltProcessMod | fltRead => cases h; exact map_vstate_onFilter _ _
  | noiseSetAmp | noiseSeed | noiseProcess | noiseRead => cases h; exact map_vstate_onNoise _

/-- Settles O40: the gate's tie to the stage makes every note-on an edge or a hold and RELEASE the stage of a released
voice, and a command that writes no stage and no gate leaves the list of voice states. -/
theorem voiceLifecycle : Obligations.VoiceLifecycle := by
  refine ⟨fun s tgt note vel v put h hok => ⟨⟨_, exec_voiceNoteOn h note vel, vstate_voiceNoteOn _ _ _ _ hok⟩,
    _, exec_voiceNoteOff h, vstate_voiceNoteOff hok⟩, fun sr P v l hok => ⟨fun h => ?_,
    vstate_voiceTick_of_held sr P l hok, vstate_voiceTick_of_released sr P l hok⟩, fun i s t k v hi h hv => ?_⟩
  · rw [voiceTick_of_idle sr P l (vstate_eq_inactive_iff.mp h), h]
  · have hk := congrArg (·[k]?) (exec_map_vstate hi h)
    simpa [hv] using hk

end Sys2Proof.Machine
end

section
/-! The voice manager's allocation and release of notes (R341 to R343). -/

namespace Sys2Proof.Machine

open Sys2Proof.Safety

/-! ## Allocation (R341) -/

theorem clampRaw_eq_zero_iff {b : Byte} : clampRaw b = 0#7 ↔ b = 0#8 := by
  rw [← BitVec.toNat_inj, ← BitVec.toNat_inj, toNat_clampRaw, BitVec.toNat_ofNat, BitVec.toNat_ofNat]
  omega

/-- The first inactive voice is the one that `f` is applied to. -/
theorem onFirstInactive_eq_set (f : Voice → Voice) {vs : List Voice} {k : ℕ} {v : Voice} (hv : vs[k]? = some v)
    (hidle : active v = false) (hfirst : ∀ j < k, ∀ u, vs[j]? = some u → active u = true) :
    onFirstInactive f vs = vs.set k (f v) := by
  induction vs generalizing k with
  | nil => cases hv
  | cons w vs ih =>
    cases k with
    | zero => cases hv; simp [onFirstInactive, hidle]
    | succ k =>
      have hw : active w = true := hfirst 0 k.succ_pos w rfl
      have htail := ih hv fun j hj => hfirst (j + 1) (Nat.succ_lt_succ hj)
      simp [onFirstInactive, hw, htail]

section Commands
variable (s : State) (note vel : Byte)

theorem exec_noteOn {vel : Byte} (hvel : vel ≠ 0#8) :
    exec (.noteOn note vel) s = .next { s with
      voices := onFirstInactive (voiceNoteOn s.sampleRate s.panel · (clampRaw note) (clampRaw vel)) s.voices } :=
  if_neg (mt clampRaw_eq_zero_iff.mp hvel)

theorem exec_noteOn_zero : exec (.noteOn note 0#8) s = exec (.noteOff note vel) s := rfl

end Commands

/-- Settles O41: a non-zero velocity stays non-zero when clamped, and the scan passes over the active voices to the
first inactive one. -/
theorem noteOnTakesTheFirstInactiveVoice : Obligations.NoteOnTakesTheFirstInactiveVoice := by
  refine fun s note vel => ⟨fun hvel hall => ?_, fun k v hvel hv hidle hfirst => ?_, exec_noteOn_zero s note vel⟩
  · rw [exec_noteOn s note hvel, onFirstInactive_all_active _ hall]
  · have htaken := exec_noteOn s note hvel
    rw [onFirstInactive_eq_set _ hv hidle hfirst] at htaken
    refine ⟨htaken, fun hk => ?_⟩
    have htgt : (BitVec.ofNat 8 k).toNat = k := Nat.mod_eq_of_lt hk
    rw [htaken, exec_voiceNoteOn ⟨by rwa [htgt], rfl⟩, htgt]

/-! ## Release (R342) -/

theorem active_and_holds_iff {v : Voice} {note : Byte} : (active v && v.note == clampRaw note) = true ↔
    v.env0.stage ≠ .idle ∧ v.note.toNat = min note.toNat 127 := by
  rw [Bool.and_eq_true, active_iff, beq_iff_eq, ← BitVec.toNat_inj, toNat_clampRaw]

/-- Settles O42: `NOTE_OFF` maps the note-off of R302 over the voices that are active and hold the note. -/
theorem noteOffReleasesEveryHolder : Obligations.NoteOffReleasesEveryHolder := by
  intro s note vel
  simp only [exec, execNoteOff, releaseNote, active_and_holds_iff]
  rfl

/-! ## A pool that runs out (R343) -/

theorem active_voiceNoteOn (sr : ℕ) (P : Panel) {v : Voice} (n vel : Raw) (hok : envOk v.env0 = true) :
    active (voiceNoteOn sr P v n vel) = true :=
  active_iff.mpr (vstate_eq_held_iff.mp (vstate_voiceNoteOn sr P n vel hok)).1

/-- Allocations one after the other pass over an active voice at the head. -/
theorem foldl_onFirstInactive_cons {α : Type} (f : α → Voice → Voice) (ps : List α) {v : Voice} (vs : List Voice)
    (hv : active v = true) :
    ps.foldl (fun us p => onFirstInactive (f p) us) (v :: vs) =
      v :: ps.foldl (fun us p => onFirstInactive (f p) us) vs := by
  induction ps generalizing vs with
  | nil => rfl
  | cons p ps ih => simp [onFirstInactive, hv, ih]

/-- From an inactive pool at least as many allocations as voices, each of which activates its voice, give voice `i`
the i-th of them and drop the rest. -/
theorem foldl_onFirstInactive {α : Type} (f : α → Voice → Voice) (ps : List α) {vs : List Voice}
    (hidle : ∀ v ∈ vs, active v = false) (hf : ∀ v ∈ vs, ∀ p, active (f p v) = true)
    (hlen : vs.length ≤ ps.length) :
    ps.foldl (fun us p => onFirstInactive (f p) us) vs = List.zipWith f ps vs := by
  induction vs generalizing ps with
  | nil =>
    rw [List.zipWith_nil_right]
    exact List.foldl_fixed' (fun _ => rfl) ps
  | cons v vs ih =>
    obtain _ | ⟨p, ps⟩ := ps
    · cases hlen
    rw [List.forall_mem_cons] at hidle hf
    have htail := ih ps hidle.2 hf.2 (Nat.le_of_succ_le_succ hlen)
    rw [List.foldl_cons, onFirstInactive, hidle.1, if_neg Bool.false_ne_true,
      foldl_onFirstInactive_cons f ps vs (hf.1 p), htail, List.zipWith_cons_cons]

/-- The voice as `NOTE_ON` with the note and velocity of `p` leaves it. -/
def noteOnVoice (s : State) (p : Byte × Byte) (v : Voice) : Voice :=
  voiceNoteOn s.sampleRate s.panel v (clampRaw p.1) (clampRaw p.2)

/-- `NOTE_ON`s of non-zero velocity allocate one after the other and change the voices alone. -/
theorem performAll_noteOn (s : State) {ps : List (Byte × Byte)} (hvel : ∀ p ∈ ps, p.2 ≠ 0#8) :
    performAll (ps.map fun p => .noteOn p.1 p.2) s = .next { s with
      voices := ps.foldl (fun us p => onFirstInactive (noteOnVoice s p) us) s.voices } := by
  induction ps generalizing s with
  | nil => rfl
  | cons p ps ih =>
    rw [List.forall_mem_cons] at hvel
    simp only [List.map_cons, performAll, exec_noteOn s p.1 hvel.1, ih _ hvel.2]
    rfl

/-- Settles O43: the notes are dealt out to the voices in order, and the one note too many finds no voice. -/
theorem poolExhaustionDropsTheLastNote : Obligations.PoolExhaustionDropsTheLastNote := by
  intro s notes hok hidle hlen hvel
  have hactive (v : Voice) (hv : v ∈ s.voices) (p : Byte × Byte) : active (noteOnVoice s p v) = true :=
    active_voiceNoteOn _ _ _ _ (hok v hv).1
  have hall := performAll_noteOn s hvel
  have htake := performAll_noteOn s fun p hp => hvel p (List.mem_of_mem_take (i := s.voices.length) hp)
  rw [foldl_onFirstInactive _ _ hidle hactive (by omega)] at hall
  rw [foldl_onFirstInactive _ _ hidle hactive (by rw [List.length_take]; omega)] at htake
  have hdrop : List.zipWith (noteOnVoice s) (notes.take s.voices.length) s.voices =
      List.zipWith (noteOnVoice s) notes s.voices := by
    rw [List.zipWith_eq_zipWith_take_min (l₁ := notes), hlen, Nat.min_eq_right (Nat.le_succ _), List.take_length]
  rw [hdrop] at htake
  refine ⟨_, hall, htake, ?_, fun k v p hv hp => ?_⟩
  · simp [hlen]
  · obtain ⟨q, u, hq, hu, rfl⟩ := List.getElem?_zipWith_eq_some.mp hv
    obtain rfl : q = p := Option.some.inj (hq.symm.trans hp)
    exact ⟨hactive u (List.mem_of_getElem? hu) q, toNat_clampRaw q.1, toNat_clampRaw q.2⟩

end Sys2Proof.Machine
end

section
/-! `RENDER` (R344 to R347): what a sample tick does, and blocks of ticks. -/

namespace Sys2Proof.Machine

open Sys2Proof.Safety

/-! ## Blocks of ticks (R347) -/

theorem exec_render (n : BitVec 16) (s : State) : exec (.render n) s = .next (renderSamples n.toNat s) := rfl

/-- Settles O45: `m + n` ticks are `m` ticks and then `n`, and a sum that fits the field does not wrap. -/
theorem renderBlocksAreInvisible : Obligations.RenderBlocksAreInvisible := by
  intro s m n hsum
  refine ⟨renderSamples n.toNat (renderSamples m.toNat s), rfl, ?_⟩
  rw [exec_render, BitVec.toNat_add_of_lt hsum, renderSamples_add]

theorem exec_render_succ {n : BitVec 16} (hn : n ≠ 0#16) (s : State) :
    exec (.render n) s = exec (.render (n - 1#16)) (sampleTick s) := by
  have hcount : n.toNat = (n - 1#16).toNat + 1 := by bv_omega
  rw [exec_render, exec_render, hcount, renderSamples]

/-! ## The sample tick (R344 to R346) -/

/-- The tick with the voices and their sum apart. -/
theorem sampleTick_eq (s : State) :
    let lfo := oscStep s.lfo fZero fZero false
    let tick := fun v => voiceTick s.sampleRate s.panel v lfo.2
    let sum := s.voices.foldl (fun acc v => fadd acc (tick v).2) fZero
    sampleTick s = { s with
      lfo := lfo.1
      lfoLast := lfo.2
      voices := s.voices.map fun v => (tick v).1
      audioOut := s.audioOut ++ [clampf (fmul sum (s.panel.scaledOf .masterGain)) fNegOne fOne] } := by
  simp only [sampleTick, State.emitAudio, tickVoices_voices, tickVoices_sum]

/-- The mix is clipped, so samples past the first `m` that are in [−1, 1] stay so as more are emitted. -/
theorem renderSamples_audioOut_within (m n : ℕ) {s : State}
    (h : ∀ y ∈ s.audioOut.drop m, within fNegOne fOne y = true) :
    ∀ y ∈ (renderSamples n s).audioOut.drop m, within fNegOne fOne y = true := by
  refine renderSamples_invariant (fun t => ∀ y ∈ t.audioOut.drop m, within fNegOne fOne y = true)
    (fun t ht y hy => ?_) n h
  rw [sampleTick_eq, List.drop_append, List.mem_append] at hy
  obtain hold | hnew := hy
  · exact ht y hold
  · rw [List.mem_singleton.mp (List.mem_of_mem_drop hnew)]
    exact within_clampf _ (by decide)

/-- The registers of a voice that a note-on writes and no tick does (R301, R311). -/
def noteRegs (v : Voice) : Raw × Raw × F32 := (v.note, v.vel, v.fnote)

theorem noteRegs_voiceTick (sr : ℕ) (P : Panel) (v : Voice) (l : F32) :
    noteRegs (voiceTick sr P v l).1 = noteRegs v := by
  simp only [voiceTick]
  split
  · split <;> rfl
  · rfl

theorem renderSamples_map_noteRegs (n : ℕ) (s : State) :
    (renderSamples n s).voices.map noteRegs = s.voices.map noteRegs := by
  refine renderSamples_invariant (fun t => t.voices.map noteRegs = s.voices.map noteRegs) (fun t ht => ?_) n rfl
  rw [sampleTick_eq, ← ht, List.map_map]
  exact List.map_congr_left fun v _ => noteRegs_voiceTick _ _ v _

/-- Settles O44: the tick written out is `sampleTick`, each tick emits one clipped sample, and no tick writes the
panel, the responses or a voice's note. -/
theorem renderTicksAndMixes : Obligations.RenderTicksAndMixes := by
  refine ⟨fun s => rfl, fun s n hn => (exec_render_succ hn s).trans (congrArg _ (sampleTick_eq s)), fun s n => ?_⟩
  obtain ⟨ys, hys, hlen⟩ := renderSamples_audioOut n.toNat s
  have hwithin := renderSamples_audioOut_within s.audioOut.length n.toNat (s := s) (by simp)
  rw [hys, List.drop_left] at hwithin
  refine ⟨_, ys, exec_render n s, hys, hlen, hwithin, renderSamples_panel _ s, renderSamples_sampleRate _ s,
    renderSamples_nv _ s, renderSamples_respOut _ s, fun k v x hv hx => ?_⟩
  have hregs := congrArg (·[k]?) (renderSamples_map_noteRegs n.toNat s)
  simpa [hv, hx, noteRegs] using hregs

end Sys2Proof.Machine
end

section
/-! The parameter panel: its scaling (R380, R381) and its commands (R382 to R386). -/

namespace Sys2Proof.Machine

open Sys2Proof.Safety

/-! ## Scaling (R380, R381) -/

/-- The exact quotient of `lin` is its formula. -/
theorem lin_quotient (lo hi : ℤ) {den : ℕ} (hden : 0 < den) (r : ℕ) :
    ((lo * 127 + (hi - lo) * r : ℤ) : ℚ) / (127 * den : ℕ) = (lo + (hi - lo) * r / 127) / den := by
  have : (den : ℚ) ≠ 0 := by positivity
  push_cast
  field_simp

/-- A scaled value is `f32` of the quotient that its formula is. -/
theorem scale_eq_f32 (p : Param) (r : Raw) :
    ∃ (n : ℤ) (d : ℕ), 0 < d ∧ scale p r = f32 n d ∧ scaleFormula p r.toNat = n / d := by
  cases p with
  | oscWaveform | lfoWaveform =>
    refine ⟨enumCode r, 1, one_pos, rfl, ?_⟩
    rw [Int.cast_natCast, Nat.cast_one, div_one]
    rfl
  | detuneCoarse =>
    refine ⟨coarseSemitones r, 1, one_pos, rfl, ?_⟩
    rw [coarseSemitones, Int.cast_sub, Int.cast_natCast, Nat.cast_one, div_one]
    rfl
  | osc2Enable | syncEnable | filterType =>
    by_cases hon : 64 ≤ r.toNat
    · exact ⟨1, 1, one_pos, by simpa [scale, switchOn, hon] using (by decide : fOne = f32 1 1),
        by simp [scaleFormula, hon]⟩
    · exact ⟨0, 1, one_pos, by simpa [scale, switchOn, hon] using (by decide : fZero = f32 0 1),
        by simp [scaleFormula, hon]⟩
  | _ =>
    refine ⟨_, _, by decide, rfl, ?_⟩
    rw [lin_quotient _ _ (by decide)]
    simp only [scaleFormula]
    push_cast
    ring

/-- Settles O49: a scaled value is `f32` of its formula's quotient, which rounds once and gives +0 for 0. -/
theorem scalingRoundsTheFormulaOnce : Obligations.ScalingRoundsTheFormulaOnce := by
  intro p r
  obtain ⟨n, d, hd, hscale, hformula⟩ := scale_eq_f32 p r
  rw [hscale, hformula]
  refine ⟨f32_roundsTo n hd, fun h0 => ?_⟩
  have hn : n = 0 := by simpa [hd.ne'] using h0
  rw [hn, f32_zero]

/-- The formula of FILTER_ENV_AMOUNT is 0 at 127/2 only, and a raw value is at least 1/2 away from it: no scaled
value is nearer to 0 than 1/128. -/
theorem val_scale_filterEnvAmount_ne_zero (r : Raw) : val (scale .filterEnvAmount r) ≠ 0 := by
  obtain ⟨n, d, hd, hscale, hq⟩ := scale_eq_f32 .filterEnvAmount r
  simp only [scaleFormula] at hq
  rw [hscale]
  have hv : IsValue (1 / 2 ^ 7) := by
    simpa using isValue_natCast_div (k := 1) (e := 7) (by norm_num) (by norm_num)
  have hr0 : (0 : ℚ) ≤ r.toNat := r.toNat.cast_nonneg
  have hr : (r.toNat : ℚ) ≤ 127 := by exact_mod_cast Nat.le_of_lt_succ r.isLt
  obtain hlow | hhigh : 2 * r.toNat + 1 ≤ 127 ∨ 128 ≤ 2 * r.toNat := by omega
  · have hlow' : (2 * r.toNat + 1 : ℚ) ≤ 127 := by exact_mod_cast hlow
    have h := valIn_f32 isValue_one.neg hv.neg hd (n := n) (by linarith) (by linarith)
    exact (h.ge.trans_lt (by norm_num)).ne
  · have hhigh' : (128 : ℚ) ≤ 2 * r.toNat := by exact_mod_cast hhigh
    have h := valIn_f32 hv isValue_one hd (n := n) (by linarith) (by linarith)
    exact (lt_of_lt_of_le (by norm_num) h.le).ne'

/-! ## The commands, by parameter (R384, R385) -/

@[simp] theorem setParam_panel (s : State) (p : Param) (r : Raw) :
    (setParam s p r).panel = s.panel.write p r := rfl

@[simp] theorem setParam_respOut (s : State) (p : Param) (r : Raw) : (setParam s p r).respOut = s.respOut := rfl

section Commands

variable {id : Byte} {p : Param} (s : State)

theorem Param.ofId_toNat (h : (p.id : ℕ) = id.toNat) : Param.ofId id.toNat = some p :=
  h ▸ Param.ofId_id p

theorem exec_controlChange (h : (p.id : ℕ) = id.toNat) (value : Byte) :
    exec (.controlChange id value) s = .next (setParam s p (clampRaw value)) := by
  simp [exec, execControlChange, Param.ofId_toNat h]

theorem exec_controlChange_ignored (h : 27 ≤ id.toNat) (value : Byte) :
    exec (.controlChange id value) s = .next s := by
  simp [exec, execControlChange, Param.ofId_eq_none h]

theorem exec_readParam (h : (p.id : ℕ) = id.toNat) : exec (.readParam id) s =
    .next (s.respond [BitVec.ofNat 32 (s.panel.rawOf p).toNat, s.panel.scaledOf p]) := by
  simp [exec, execReadParam, Param.ofId_toNat h]

theorem exec_readParam_ignored (h : 27 ≤ id.toNat) :
    exec (.readParam id) s = .next (s.respond [invalidWord, 0#32]) := by
  simp [exec, execReadParam, Param.ofId_eq_none h]

end Commands

/-- Settles O48: the answer is the entry that `CONTROL_CHANGE` wrote, and a value to 127 is not clamped. -/
theorem readParamReturnsWhatWasWritten : Obligations.ReadParamReturnsWhatWasWritten := by
  refine ⟨fun s _ _ h => exec_readParam s h, fun s _ h => exec_readParam_ignored s h,
    fun s id value p h hv => ?_, by decide, by decide, val_scale_filterEnvAmount_ne_zero⟩
  refine ⟨_, by simp only [performAll, exec_controlChange s h, exec_readParam _ h]; rfl, ?_⟩
  rw [State.respond_respOut, setParam_respOut, setParam_panel, Panel.write_rawOf_self, Panel.write_scaledOf_self,
    toNat_clampRaw, clampRaw, Nat.min_eq_left hv]

/-! ## Fan-out (R382) -/

@[simp] theorem Panel.write_write (P : Panel) (p : Param) (r : Raw) : (P.write p r).write p r = P.write p r := by
  simp [Panel.write]

@[simp] theorem fanoutLfo_fanoutLfo (sr : ℕ) (P : Panel) (p : Param) (o : Osc) :
    fanoutLfo sr P p (fanoutLfo sr P p o) = fanoutLfo sr P p o := by
  cases p <;> rfl

@[simp] theorem fanoutVoice_fanoutVoice (sr : ℕ) (P : Panel) (p : Param) (v : Voice) :
    fanoutVoice sr P p (fanoutVoice sr P p v) = fanoutVoice sr P p v := by
  cases p <;> rfl

theorem setParam_setParam (s : State) (p : Param) (r : Raw) : setParam (setParam s p r) p r = setParam s p r := by
  simp [setParam]

/-- Settles O50: a parameter written twice is written once, since each register of its row is written from the panel
and the note, which the row leaves. -/
theorem controlChangeIsIdempotent : Obligations.ControlChangeIsIdempotent := by
  intro s id value
  cases hid : Param.ofId id.toNat with
  | none => simp [performAll, exec, execControlChange, hid]
  | some p => simp [performAll, exec, execControlChange, hid, setParam_setParam]

theorem code_waveOfCode_enumCode (r : Raw) : (waveOfCode (enumCode r)).code.toNat = r.toNat / 16 := by
  have := r.isLt
  rw [waveOfCode_code, enumCode]
  omega

/-- Settles O47: `setParam` writes the entry and its row, which reads the entry written. -/
theorem controlChangeFansOut : Obligations.ControlChangeFansOut := by
  refine fun s id value => ⟨fun h => exec_controlChange_ignored s h value, fun p h => ?_⟩
  have hraw := Panel.write_rawOf_self s.panel p (clampRaw value)
  have hscaled := Panel.write_scaledOf_self s.panel p (clampRaw value)
  refine ⟨_, _, _, exec_controlChange s h value, hraw, hscaled,
    fun q hq => ⟨Panel.write_rawOf_other _ _ hq, Panel.write_scaledOf_other _ _ hq⟩, ?_⟩
  cases p with
  | oscWaveform =>
    exact ⟨rfl, _, code_waveOfCode_enumCode _, funext fun v => by simp only [fanoutVoice, hraw]; rfl⟩
  | lfoWaveform =>
    exact ⟨⟨_, code_waveOfCode_enumCode _, by simp only [fanoutLfo, hraw]; rfl⟩, rfl⟩
  | lfoRate => exact ⟨by simp only [fanoutLfo, hscaled]; rfl, rfl⟩
  | pulseWidth | noiseLevel | filterResonance | ampAttack | ampDecay | ampSustain | ampRelease =>
    exact ⟨rfl, funext fun v => by simp only [fanoutVoice, hscaled]; rfl⟩
  | _ => exact ⟨rfl, rfl⟩

end Sys2Proof.Machine
end

section
/-! What the command processor takes from the stream when no whole command is decoded (R423, R424), and that a step
always answers a state (R440). -/

namespace Sys2Proof

/-- The undefined ranges of the opcode map (R114, R423). -/
theorem Op.ofByte_eq_none {b : Byte} (h : (0x07 ≤ b.toNat ∧ b.toNat ≤ 0x0E) ∨ (0x19 ≤ b.toNat ∧ b.toNat ≤ 0x1F) ∨
    (0x27 ≤ b.toNat ∧ b.toNat ≤ 0x2F) ∨ (0x35 ≤ b.toNat ∧ b.toNat ≤ 0x3F) ∨
    (0x44 ≤ b.toNat ∧ b.toNat ≤ 0x4F) ∨ 0x53 ≤ b.toNat) : Op.ofByte b = none := by
  unfold Op.ofByte
  split
  -- the arm for every byte outside the map
  case h_37 => rfl
  all_goals omega

theorem opField_toNat (w : Word) : (opField w).toNat = w.toNat / 2 ^ 24 := by
  have := w.isLt
  rw [opField, field_toNat]
  omega

theorem decode_of_undefined {h : Word} (hop : Op.ofByte (opField h) = none) (ws : List Word) :
    decode (h :: ws) = .undefinedOpcode (opField h) ws := by
  simp only [decode, hop]

/-- The words of an unfinished command and those it misses are the command, and the words after them stay. -/
theorem decode_append_of_unfinished {h : Word} {ps ws : List Word} {op : Op} (hop : Op.ofByte (opField h) = some op)
    (hlt : ps.length < op.pay) (hws : op.pay ≤ ps.length + ws.length) :
    decode (h :: (ps ++ ws)) = .command (op.build h ((ps ++ ws).getD 0 0#32) ((ps ++ ws).getD 1 0#32))
      (ws.drop (op.pay - ps.length)) := by
  rw [decode_of_pay_le hop (by rwa [List.length_append]), List.drop_append, List.drop_eq_nil_of_le hlt.le,
    List.nil_append]

namespace Machine

open Safety

/-- Settles O3: the opcode field of such a header is a byte that stands for no opcode, and one word is consumed. -/
theorem undefinedOpcodeIsOneWordNop : Obligations.UndefinedOpcodeIsOneWordNop := by
  intro s h ws hp hs hop
  have hnone : Op.ofByte (opField h) = none := Op.ofByte_eq_none (by rw [opField_toNat]; omega)
  have hundef : decode s.window = .undefinedOpcode (opField h) ws := by
    rw [State.window, hp, hs, List.nil_append, decode_of_undefined hnone]
  have hcount : s.stream.length - ws.length = 1 := by
    rw [hs, List.length_cons]
    omega
  rw [step_of_undefined hundef, State.consumeTo, hcount, ← hp]

/-- A step runs the command that the held and the waiting words are together, and counts the `n` it takes. -/
theorem step_of_window {s : State} {ws rest : List Word} {i : Instr} {n : ℕ} (hw : s.window = ws)
    (h : decode ws = .command i rest) (hn : s.stream.length - rest.length = n) :
    step s = exec i { s with cpos := s.cpos + n, stream := rest, partialCmd := [] } := by
  subst hw hn
  exact step_of_command h

/-- Settles O5: what is held is decoded again in front of what arrives, and of that the missing words are
consumed. -/
theorem incompleteCommandWaits : Obligations.IncompleteCommandWaits := by
  intro s h ps op hw hop hlt
  have hwait : decode s.window = .incomplete op (op.pay - ps.length) := by
    rw [State.window, hw]
    exact decode_of_lt_pay hop hlt
  refine ⟨by rw [step_of_incomplete hwait, State.holdPartial, State.window, hw], fun ws hws => ?_⟩
  have hdone := decode_append_of_unfinished hop hlt hws
  have hcount : ws.length - (ws.drop (op.pay - ps.length)).length = op.pay - ps.length := by
    rw [List.length_drop]
    omega
  exact ⟨_, op_build .., hdone, step_of_window rfl hdone hcount⟩

/-- Settles O60: a step answers one state, whose held words are unfinished. -/
theorem stepKeepsPendingUnfinished : Obligations.StepKeepsPendingUnfinished := by
  intro s t h
  obtain ⟨u, hu, hp⟩ := exists_step_eq_next s
  cases h.symm.trans hu
  exact hp

/-- Settles O8: every command answers a state, so every step does. -/
theorem noCommandFaults : Obligations.NoCommandFaults :=
  ⟨exists_exec_eq_next, fun s => (exists_step_eq_next s).imp fun _ h => h.1⟩

end Machine
end Sys2Proof
end

section
/-! Reset (R421, R470): every register's reset value, and that ticks from reset are silent. -/

namespace Sys2Proof.Machine

open Sys2Proof.Safety

/-! ## The reset values -/

theorem panelReset_rawOf (p : Param) : some (panelReset.rawOf p).toNat = resetRawById[(p.id : ℕ)]? := by
  cases p <;> rfl

theorem getElem?_voicesReset (sr : ℕ) {nv v : ℕ} (hv : v < nv) : (voicesReset sr nv)[v]? = some (voiceReset sr v) := by
  rw [voicesReset, List.getElem?_map, List.getElem?_range hv, Option.map_some]

theorem atReset_resetFor (c : Config) : AtReset c (State.resetFor c) :=
  ⟨rfl, congrArg Config.numVoices (State.resetFor_config c), fun p => ⟨panelReset_rawOf p, panelReset_scaledOf p⟩,
    rfl, rfl, fun _ hv => getElem?_voicesReset c.sampleRate hv⟩

/-- Settles O13: `RESET` is power-on with the parameters kept, and neither the outputs nor the stream is a register
of R470 items 1 to 8. -/
theorem resetGivesResetValues : Obligations.ResetGivesResetValues :=
  ⟨fun c => ⟨atReset_resetFor c, rfl, rfl, rfl⟩,
    fun s => ⟨_, rfl, atReset_resetFor s.config, rfl, rfl, rfl, rfl, rfl⟩⟩

/-! ## Silence -/

/-- No voice runs and the panel is at reset: what ticks from reset keep, though the LFO moves on. -/
structure Silent (s : State) : Prop where
  idle : ∀ v ∈ s.voices, v.env0.stage = .idle
  panel : s.panel = panelReset

theorem silent_resetFor (c : Config) : Silent (State.resetFor c) :=
  ⟨forall_voicesReset fun _ _ => rfl, rfl⟩

/-- Idle voices stay as they are and their sum stays +0 (R312, R345). -/
theorem tickVoices_of_idle (sr : ℕ) (P : Panel) (l : F32) {vs : List Voice} (h : ∀ v ∈ vs, v.env0.stage = .idle) :
    tickVoices sr P l vs fZero = (vs, fZero) := by
  have hzero : fadd fZero fZero = fZero := by decide
  induction vs with
  | nil => rfl
  | cons v vs ih =>
    obtain ⟨hv, hvs⟩ := List.forall_mem_cons.mp h
    simp only [tickVoices, voiceTick_of_idle sr P l hv, hzero, ih hvs]

/-- The mix of +0 at the reset gain is +0 (R346). -/
theorem mix_fZero_panelReset : clampf (fmul fZero (panelReset.scaledOf .masterGain)) fNegOne fOne = fZero := by decide

theorem Silent.sampleTick {s : State} (h : Silent s) :
    Silent (sampleTick s) ∧ (sampleTick s).audioOut = s.audioOut ++ [fZero] := by
  obtain ⟨hidle, hpanel⟩ := h
  refine ⟨⟨?_, hpanel⟩, ?_⟩ <;> simp only [Machine.sampleTick, tickVoices_of_idle _ _ _ hidle]
  · exact hidle
  · rw [hpanel, mix_fZero_panelReset]
    rfl

theorem Silent.renderSamples_audioOut (n : ℕ) {s : State} (h : Silent s) :
    (renderSamples n s).audioOut = s.audioOut ++ List.replicate n fZero := by
  induction n generalizing s with
  | zero => exact (List.append_nil _).symm
  | succ n ih =>
    obtain ⟨hsilent, haudio⟩ := h.sampleTick
    rw [renderSamples, ih hsilent, haudio, List.append_assoc, List.singleton_append, List.replicate_succ]

/-- Settles O14: reset is silent, and a tick of a silent state emits +0 and is silent again. -/
theorem silenceAfterReset : Obligations.SilenceAfterReset := fun c n =>
  ⟨fun v hv => vstate_eq_inactive_iff.mpr ((silent_resetFor c).idle v hv), _, exec_render n _,
    (silent_resetFor c).renderSamples_audioOut _⟩

end Sys2Proof.Machine
end

section
/-! `NOP` and `READ_VOICE` (R420, R422): the fields of the status word of a voice. -/

namespace Sys2Proof.Machine

open Sys2Proof.Safety

theorem voiceStatusWord_flags (v : Voice) :
    (voiceStatusWord v).getLsbD 0 = active v ∧ (voiceStatusWord v).getLsbD 7 = v.env0.gate ∧
      (voiceStatusWord v).getLsbD 15 = v.osc0.eoc ∧ (voiceStatusWord v).getLsbD 23 = v.osc0.eor ∧
      (voiceStatusWord v).getLsbD 24 = v.osc1.eoc ∧ (voiceStatusWord v).getLsbD 25 = v.osc1.eor := by
  simp only [voiceStatusWord, BitVec.getLsbD_append]
  simp

theorem voiceStatusWord_fields (v : Voice) :
    (voiceStatusWord v).extractLsb' 1 3 = v.env0.stage.code ∧
      (voiceStatusWord v).extractLsb' 4 3 = v.env1.stage.code ∧
      (voiceStatusWord v).extractLsb' 8 7 = v.note ∧ (voiceStatusWord v).extractLsb' 16 7 = v.vel ∧
      (voiceStatusWord v).extractLsb' 26 6 = 0#6 := by
  simp (disch := decide) only [voiceStatusWord, BitVec.extractLsb'_append_eq_of_le,
    BitVec.extractLsb'_append_eq_of_add_le]
  simp

theorem exec_readVoice {s : State} {tgt : Byte} {v : Voice} {put : Voice → State} (h : VoiceAt s tgt v put) :
    exec (.readVoice tgt) s = .next { s with respOut := s.respOut ++ [voiceStatusWord v] } :=
  congrArg Host.Outcome.next ((onVoice_at _ h).trans ((replaces_of_voiceAt h).respond_self _))

/-- Settles O37: the word answered is the voice's status word, whose fields stand side by side, and the voice is put
back as it was. -/
theorem nopAndReadVoice : Obligations.NopAndReadVoice := by
  refine ⟨fun s => rfl, fun s tgt v put h => ⟨voiceStatusWord v, exec_readVoice h, ?_⟩,
    fun s tgt h => exec_of_invalid_target (i := .readVoice tgt) h⟩
  obtain ⟨hactive, hgate, heoc0, heor0, heoc1, heor1⟩ := voiceStatusWord_flags v
  obtain ⟨hstage0, hstage1, hnote, hvel, hzero⟩ := voiceStatusWord_fields v
  exact ⟨by rw [hactive, active_iff], hstage0, hstage1, hgate, hnote, heoc0, hvel, heor0, heoc1, heor1, hzero⟩

end Sys2Proof.Machine
end
